-- ==== Sys2Proof/Word.lean ====
section
/-!
DEFINITION. The word of the HSH-MMP core (R6, R7): every register, limb, command word and bus datum is
32 bits; byte lanes (R54) are 8 bits.
-/
namespace Sys2Proof

/-- A 32-bit register, limb, command word or bus datum (R6, R7). -/
abbrev Word := BitVec 32

/-- One byte lane of the bus (R54). -/
abbrev Byte := BitVec 8

end Sys2Proof
end

