-- ==== Sys2Proof/Config.lean ====
section
/-!
DEFINITION. What an implementation fixes (R8) and the free values the spec leaves open (R12's draw, U1-U5).
-/
namespace Sys2Proof

/-- A value of the parameter `K_BOUND` other than NONE: an integer k ≥ 1 (R8, R129).
`none : Option IterBound` is NONE. -/
structure IterBound where
  /-- The integer k. -/
  k : Nat
  /-- R8 gives the domain k ≥ 1. -/
  pos : 1 ≤ k
  deriving DecidableEq, Repr

/-- The n-th unconstrained 32-bit value, `draw32()` (R23, R57; U1, U2, U3). It has no body: nothing can be proved
of a value of it. DESIGN CHOICE (log entry 2): a counter in State makes each draw a fresh one; safe. -/
opaque Config.drawWord : Nat → Word

/-- The unconstrained level of the `err` pin in the n-th cycle with `ack = 0` (R73, U5). DESIGN CHOICE (log entry 24); safe. -/
opaque Config.idleErr : Nat → Bool

/-- The unconstrained value of the `rdata` pins in the n-th cycle with `ack = 0` (R73, U5): a constant of its own, so that
nothing relates it to a draw. DESIGN CHOICE (log entry 24); safe. -/
opaque Config.idleWord : Nat → Word

end Sys2Proof
end

