-- ==== Sys2Proof/Syntax.lean ====
section
/-!
DEFINITION. The instructions of the core: one constructor per row of spec/opcode_table.json. The first four are
words written to CMD (R76); SRESET is a word written to CTRL (R80, R166).
-/
namespace Sys2Proof

/-- The core's commands. A command word carries no register number and no immediate (R75): operands come from the
operand registers and results go to the result registers. -/
inductive Instr where
  /-- CMD word 0x00000000 (R165). -/
  | nop
  /-- CMD word 0x00000001 (R100): the widening multiply-accumulate A·X + B. -/
  | combine
  /-- CMD word 0x00000002 (R120): the double modular reduction (Y mod P) mod m. -/
  | reduce
  /-- CMD word 0x00000003 (R150): COMBINE then REDUCE, fused. -/
  | hash
  /-- A CTRL word `d` (R166); the table's row has d[0] = 1, and d[31:1] are ignored (R80). -/
  | sreset (d : Word)
  deriving DecidableEq, Repr

end Sys2Proof
end

