-- ==== Sys2Proof/Machine/State.lean ====
section
/-!
DEFINITION. The state of the core as R20 lists it, the port and the host's inputs around it (R70-R74), the reasons a
step can stop, and the state right after reset (R34, R231).
-/
namespace Sys2Proof.Machine

/-- Two limbs, limb 0 least significant (R11, R53). -/
structure Limbs2 where
  l0 : Word
  l1 : Word
  deriving DecidableEq, Repr

/-- Three limbs, limb 0 least significant (R11, R53). -/
structure Limbs3 where
  l0 : Word
  l1 : Word
  l2 : Word
  deriving DecidableEq, Repr

/-- Five limbs, limb 0 least significant (R11, R53). -/
structure Limbs5 where
  l0 : Word
  l1 : Word
  l2 : Word
  l3 : Word
  l4 : Word
  deriving DecidableEq, Repr

/-- The 17 operand registers (R21): A0-A2, B0-B2, X0-X1, P0-P2, M, YI0-YI4. -/
structure OperandRegs where
  a : Limbs3
  b : Limbs3
  x : Limbs2
  p : Limbs3
  m : Word
  yi : Limbs5
  deriving DecidableEq, Repr

/-- The 6 result registers (R22): YO0-YO4 and R. -/
structure ResultRegs where
  yo : Limbs5
  r : Word
  deriving DecidableEq, Repr

/-- The names of the operand registers (R21). -/
inductive OperandReg where
  | a0 | a1 | a2 | b0 | b1 | b2 | x0 | x1 | p0 | p1 | p2 | m | yi0 | yi1 | yi2 | yi3 | yi4
  deriving DecidableEq, Repr

/-- The names of the result registers (R22). -/
inductive ResultReg where
  | yo0 | yo1 | yo2 | yo3 | yo4 | r
  deriving DecidableEq, Repr

/-- The names of the register map (R51). -/
inductive RegName where
  | cmd
  | ctrl
  | status
  | operand (o : OperandReg)
  | result (q : ResultReg)
  deriving DecidableEq, Repr

/-- The operation state machine (R20, R31). -/
inductive Fsm where
  | idle | busy | done | fault
  deriving DecidableEq, Repr

/-- The operations that can be in flight (R20, R32). -/
inductive Op where
  | combine | reduce | hash
  deriving DecidableEq, Repr

/-- The fault causes (R29, R200); code 0 NONE is the absence of one. -/
inductive FaultCause where
  | illegalCmd | pZero | mZero | kBound | assertHighLimbs
  deriving DecidableEq, Repr

/-- What `reduce` answers (R121): a residue, or a fault cause. -/
inductive Reduction where
  | ok (r : Word)
  | fault (c : FaultCause)
  deriving DecidableEq, Repr

/-- A host transaction (R74): write or read, byte address, byte enables, write data. -/
structure Transaction where
  we : Bool
  addr : BitVec 8
  be : BitVec 4
  wdata : Word
  deriving DecidableEq, Repr

/-- The response to a transaction (R74). Where the spec calls `rdata` unspecified it holds a draw. -/
structure Response where
  err : Bool
  rdata : Word
  deriving DecidableEq, Repr

/-- The register port within one clock cycle (R71). -/
inductive Port where
  /-- No transaction in progress; `ack = 0`. -/
  | idle
  /-- A transaction in progress, not acknowledged yet; `ack = 0`. -/
  | waiting (t : Transaction)
  /-- The ack cycle of a transaction: `ack = 1`, and the transaction takes effect at the edge that ends it (R72). -/
  | acking (t : Transaction)
  deriving DecidableEq, Repr

/-- The input pins as sampled at one rising edge of `clk` (R70). -/
structure Pins where
  rst : Bool
  req : Bool
  we : Bool
  addr : BitVec 8
  be : BitVec 4
  wdata : Word
  deriving DecidableEq, Repr

/-- One turn of the machine. The list of turns in State is plain data that says who moves next; it stands for the
host and for the open LATENCY and ACK_LATENCY (R8, R167, U6, U7, U9). DESIGN CHOICE (log entries 4 and 7). -/
inductive Turn where
  /-- A rising edge of `clk` with the pins sampled; `ack` says whether a transaction that is begun or waiting is
  acknowledged in the cycle that follows. -/
  | edge (pins : Pins) (ack : Bool)
  /-- The core agent's own step, completion (R167), at the edge before it, after any transaction there (R72). -/
  | core
  deriving DecidableEq, Repr

/-- The machine's state. -/
structure State where
  /-- Operand registers (R21). -/
  operands : OperandRegs
  /-- Result registers (R22). -/
  results : ResultRegs
  /-- The state machine (R31). -/
  fsm : Fsm
  /-- The CAUSE field, a 4-bit code (R20, R29). -/
  cause : BitVec 4
  /-- The accepted operation; meaningful only when BUSY (R20, R32). -/
  op : Option Op
  /-- The configuration K_BOUND, constant; the model's own field (R8; log entry 1). -/
  kBound : Option IterBound
  /-- The index of the next free value: it grows with every draw and with every cycle with `ack = 0`; the model's own field (log
  entries 2 and 24). -/
  draws : Nat
  /-- The register port's handshake (R71). -/
  port : Port
  /-- The response to the transaction the last step acknowledged; `none`: it acknowledged none (log entry 6). -/
  response : Option Response
  /-- The turns to come; the model's own field (log entries 4, 5 and 7). -/
  inputs : List Turn
  deriving DecidableEq, Repr

/-- Why a step can stop. The spec gives the core no stop of its own: its faults are the state FAULT (R204). -/
inductive Fault where
  /-- Raised by the core agent's turn when fsm = BUSY and no operation is recorded: no state of the spec (R20 gives
  `op` a value whenever BUSY) and none a run reaches. Safe. -/
  | noOperationInFlight
  deriving DecidableEq, Repr

/-- Why an instruction has no meaning. -/
inductive Refusal where
  /-- Raised by an arm of `exec` whose instruction has no meaning; no arm does. Safe. -/
  | notModelled (mnemonic : String)
  deriving DecidableEq, Repr

/-- Every operand register at its reset value (R34). -/
def OperandRegs.reset : OperandRegs :=
  { a := ⟨0, 0, 0⟩, b := ⟨0, 0, 0⟩, x := ⟨0, 0⟩, p := ⟨0, 0, 0⟩, m := 0, yi := ⟨0, 0, 0, 0, 0⟩ }

/-- Every result register at its reset value (R34). -/
def ResultRegs.reset : ResultRegs := { yo := ⟨0, 0, 0, 0, 0⟩, r := 0 }

/-- The machine right after reset (R34, R231), with no transaction in progress (R73) and nothing placed: K_BOUND is
at its default NONE (U8; log entry 1), the draw counter at 0 and the list of turns empty (log entries 2 and 5). -/
def State.reset : State :=
  { operands := OperandRegs.reset, results := ResultRegs.reset, fsm := .idle, cause := 0, op := none,
    kBound := none, draws := 0, port := .idle, response := none, inputs := [] }

end Sys2Proof.Machine
end

