-- ==== Sys2Proof/Machine/Operands.lean ====
section
/-!
DEFINITION. Operand forms: limb sequences as integers (R11, R81, R82), the registers by name, and the register map
(R51, R53).
-/
namespace Sys2Proof.Machine

/-- `val` of two limbs (R11). -/
def val2 (l : Limbs2) : Nat := l.l0.toNat + 2 ^ 32 * l.l1.toNat

/-- `val` of three limbs (R11). -/
def val3 (l : Limbs3) : Nat := l.l0.toNat + 2 ^ 32 * l.l1.toNat + 2 ^ 64 * l.l2.toNat

/-- `val` of five limbs (R11). -/
def val5 (l : Limbs5) : Nat :=
  l.l0.toNat + 2 ^ 32 * l.l1.toNat + 2 ^ 64 * l.l2.toNat + 2 ^ 96 * l.l3.toNat + 2 ^ 128 * l.l4.toNat

/-- `lo32(t) = t mod 2^32` as a word (R11). -/
def lo32 (t : Nat) : Word := BitVec.ofNat 32 t

/-- `hi32(t) = floor(t / 2^32)` (R11). -/
def hi32 (t : Nat) : Nat := t / 2 ^ 32

/-- `limbs_5(v)` (R11, R82), for v < 2^160. -/
def limbs5 (v : Nat) : Limbs5 :=
  ⟨lo32 v, lo32 (v / 2 ^ 32), lo32 (v / 2 ^ 64), lo32 (v / 2 ^ 96), lo32 (v / 2 ^ 128)⟩

/-- A three-limb quantity zero-extended to five limbs: P̂ (R81, R123). -/
def zext3 (l : Limbs3) : Limbs5 := ⟨l.l0, l.l1, l.l2, 0, 0⟩

/-- A one-limb quantity zero-extended to five limbs (R81, R124). -/
def zext1 (w : Word) : Limbs5 := ⟨w, 0, 0, 0, 0⟩

/-- Read an operand register by name (R21). -/
def OperandRegs.get (q : OperandRegs) : OperandReg → Word
  | .a0 => q.a.l0 | .a1 => q.a.l1 | .a2 => q.a.l2
  | .b0 => q.b.l0 | .b1 => q.b.l1 | .b2 => q.b.l2
  | .x0 => q.x.l0 | .x1 => q.x.l1
  | .p0 => q.p.l0 | .p1 => q.p.l1 | .p2 => q.p.l2
  | .m => q.m
  | .yi0 => q.yi.l0 | .yi1 => q.yi.l1 | .yi2 => q.yi.l2 | .yi3 => q.yi.l3 | .yi4 => q.yi.l4

/-- Write an operand register by name: every bit, and no other register (R21, R24, R58). -/
def OperandRegs.set (q : OperandRegs) (o : OperandReg) (v : Word) : OperandRegs :=
  match o with
  | .a0 => { q with a := { q.a with l0 := v } }
  | .a1 => { q with a := { q.a with l1 := v } }
  | .a2 => { q with a := { q.a with l2 := v } }
  | .b0 => { q with b := { q.b with l0 := v } }
  | .b1 => { q with b := { q.b with l1 := v } }
  | .b2 => { q with b := { q.b with l2 := v } }
  | .x0 => { q with x := { q.x with l0 := v } }
  | .x1 => { q with x := { q.x with l1 := v } }
  | .p0 => { q with p := { q.p with l0 := v } }
  | .p1 => { q with p := { q.p with l1 := v } }
  | .p2 => { q with p := { q.p with l2 := v } }
  | .m => { q with m := v }
  | .yi0 => { q with yi := { q.yi with l0 := v } }
  | .yi1 => { q with yi := { q.yi with l1 := v } }
  | .yi2 => { q with yi := { q.yi with l2 := v } }
  | .yi3 => { q with yi := { q.yi with l3 := v } }
  | .yi4 => { q with yi := { q.yi with l4 := v } }

/-- Read a result register's stored value by name (R22). -/
def ResultRegs.get (q : ResultRegs) : ResultReg → Word
  | .yo0 => q.yo.l0 | .yo1 => q.yo.l1 | .yo2 => q.yo.l2 | .yo3 => q.yo.l3 | .yo4 => q.yo.l4
  | .r => q.r

/-- Offset of an operand register: base + 4·i for limb i (R51, R53). -/
def OperandReg.offset : OperandReg → BitVec 8
  | .a0 => 0x10 | .a1 => 0x14 | .a2 => 0x18
  | .b0 => 0x20 | .b1 => 0x24 | .b2 => 0x28
  | .x0 => 0x30 | .x1 => 0x34
  | .p0 => 0x40 | .p1 => 0x44 | .p2 => 0x48
  | .m => 0x50
  | .yi0 => 0x60 | .yi1 => 0x64 | .yi2 => 0x68 | .yi3 => 0x6C | .yi4 => 0x70

/-- Offset of a result register (R51, R53). -/
def ResultReg.offset : ResultReg → BitVec 8
  | .yo0 => 0x80 | .yo1 => 0x84 | .yo2 => 0x88 | .yo3 => 0x8C | .yo4 => 0x90
  | .r => 0xA0

/-- The register map (R51): the offset of each register. -/
def RegName.offset : RegName → BitVec 8
  | .cmd => 0x00
  | .ctrl => 0x04
  | .status => 0x08
  | .operand o => o.offset
  | .result q => q.offset

/-- Every register of the map, in ascending order of offset (R51). -/
def RegName.all : List RegName :=
  [.cmd, .ctrl, .status, .operand .a0, .operand .a1, .operand .a2, .operand .b0, .operand .b1, .operand .b2,
   .operand .x0, .operand .x1, .operand .p0, .operand .p1, .operand .p2, .operand .m]
  ++ [.operand .yi0, .operand .yi1, .operand .yi2, .operand .yi3, .operand .yi4,
      .result .yo0, .result .yo1, .result .yo2, .result .yo3, .result .yo4, .result .r]

/-- The register mapped at a byte address; `none`: the address is unmapped (R51). -/
def regAt (addr : BitVec 8) : Option RegName := RegName.all.find? (fun n => n.offset == addr)

/-- The register a legal transaction reaches (R55): word aligned, all four byte lanes, a mapped offset. `none`: the
transaction is not legal. -/
def Transaction.target (t : Transaction) : Option RegName :=
  if t.addr.extractLsb' 0 2 = 0 ∧ t.be = 0b1111 then regAt t.addr else none

/-- The operand values of an operation in flight are the registers' (R33, R81): the multiplier A. -/
def State.valA (s : State) : Nat := val3 s.operands.a

/-- The offset B (R81). -/
def State.valB (s : State) : Nat := val3 s.operands.b

/-- The input operand X (R81). -/
def State.valX (s : State) : Nat := val2 s.operands.x

/-- The modulus P (R81). -/
def State.valP (s : State) : Nat := val3 s.operands.p

/-- The secondary modulus m (R81). -/
def State.valM (s : State) : Nat := s.operands.m.toNat

/-- The accumulator Y as input to REDUCE (R81). -/
def State.valYin (s : State) : Nat := val5 s.operands.yi

end Sys2Proof.Machine
end

