-- ==== Sys2Proof/Machine/Arithmetic.lean ====
section
/-!
DEFINITION. The arithmetic of the two blocks: `combine` (R101) and `reduce` (R121), which the instructions use, and the
source's limb-level reference algorithms (R102, R122-R124) that they are held against.
-/
namespace Sys2Proof.Machine

/-- `combine(A, B, X) = limbs_5(A·X + B)` (R101). -/
def combine (a b : Limbs3) (x : Limbs2) : Limbs5 := limbs5 (val3 a * val2 x + val3 b)

/-- The K_BOUND check of R129: the parameter is some k and Y ≥ k·P. -/
def exceedsBound (kb : Option IterBound) (p y : Nat) : Bool :=
  match kb with
  | none => false
  | some b => b.k * p ≤ y

/-- Limbs 1 to 4 of the phase-2 result are not all zero (R126). -/
def highLimbsSet (l : Limbs5) : Bool := !(l.l1 = 0 && l.l2 = 0 && l.l3 = 0 && l.l4 = 0)

/-- `reduce(P, m, Y)` (R121), with its checks in the order of R130. The last never fires (R126). -/
def reduce (kb : Option IterBound) (p : Limbs3) (m : Word) (y : Limbs5) : Reduction :=
  if val3 p = 0 then .fault .pZero
  else if m.toNat = 0 then .fault .mZero
  else if exceedsBound kb (val3 p) (val5 y) then .fault .kBound
  else
    let r := limbs5 (val5 y % val3 p % m.toNat)
    if highLimbsSet r then .fault .assertHighLimbs else .ok r.l0

/-- Chain 1's columns (R102): `t = A[i]·X[0] + c`, at most 2^64 − 2^32 (R103). -/
def column1 (ai xj : Word) (c : Nat) : Nat := ai.toNat * xj.toNat + c

/-- Chain 2's columns (R102): `t = Y[i+1] + A[i]·X[1] + c`, at most 2^64 − 1 (R103). -/
def column2 (yi ai xj : Word) (c : Nat) : Nat := yi.toNat + ai.toNat * xj.toNat + c

/-- Chain 3's columns (R102): `t = Y[i] + B[i] + c`, at most 2^33 − 1 (R103). -/
def column3 (yi bi : Word) (c : Nat) : Nat := yi.toNat + bi.toNat + c

/-- Chain 1 of R102: A·X[0] into limbs 0 to 3. -/
def chain1 (a : Limbs3) (x0 : Word) : Limbs5 :=
  let t0 := column1 a.l0 x0 0
  let t1 := column1 a.l1 x0 (hi32 t0)
  let t2 := column1 a.l2 x0 (hi32 t1)
  ⟨lo32 t0, lo32 t1, lo32 t2, lo32 (hi32 t2), 0⟩

/-- Chain 2 of R102: A·X[1] added one limb higher, into limbs 1 to 4. -/
def chain2 (y : Limbs5) (a : Limbs3) (x1 : Word) : Limbs5 :=
  let t0 := column2 y.l1 a.l0 x1 0
  let t1 := column2 y.l2 a.l1 x1 (hi32 t0)
  let t2 := column2 y.l3 a.l2 x1 (hi32 t1)
  ⟨y.l0, lo32 t0, lo32 t1, lo32 t2, lo32 (hi32 t2)⟩

/-- Chain 3 of R102: B added into limbs 0 to 2, carrying up to limb 4; with the carry out of limb 4. -/
def chain3 (y : Limbs5) (b : Limbs3) : Limbs5 × Nat :=
  let t0 := column3 y.l0 b.l0 0
  let t1 := column3 y.l1 b.l1 (hi32 t0)
  let t2 := column3 y.l2 b.l2 (hi32 t1)
  let t3 := column3 y.l3 0 (hi32 t2)
  let t4 := column3 y.l4 0 (hi32 t3)
  (⟨lo32 t0, lo32 t1, lo32 t2, lo32 t3, lo32 t4⟩, hi32 t4)

/-- The reference algorithm `combine_ref` (R102), with chain 3's carry out of limb 4. -/
def combineChains (a b : Limbs3) (x : Limbs2) : Limbs5 × Nat := chain3 (chain2 (chain1 a x.l0) a x.l1) b

/-- The reference algorithm `combine_ref` (R102). -/
def combineRef (a b : Limbs3) (x : Limbs2) : Limbs5 := (combineChains a b x).1

/-- One column of the borrow chain (R122): `col = b + U[i] − V[i]`, a signed integer. -/
def borrowColumn (b : Int) (u v : Word) : Int := b + (u.toNat : Int) - (v.toNat : Int)

/-- `asr32(t)`, floor(t / 2^32) for a negative t as well (R11). -/
def asr32 (t : Int) : Int := Int.fdiv t (2 ^ 32)

/-- The low 32 bits of a two's-complement column (R122). -/
def loColumn (t : Int) : Word := BitVec.ofInt 32 t

/-- The borrow-chain subtractor `sub5` (R122): the five low words, and whether the chain borrowed past limb 4. -/
def sub5 (u v : Limbs5) : Limbs5 × Bool :=
  let c0 := borrowColumn 0 u.l0 v.l0
  let c1 := borrowColumn (asr32 c0) u.l1 v.l1
  let c2 := borrowColumn (asr32 c1) u.l2 v.l2
  let c3 := borrowColumn (asr32 c2) u.l3 v.l3
  let c4 := borrowColumn (asr32 c3) u.l4 v.l4
  (⟨loColumn c0, loColumn c1, loColumn c2, loColumn c3, loColumn c4⟩, asr32 c4 = -1)

/-- The repeated-subtraction loop both phases share (R123, R124): subtract `v` until that would go negative, or the
value is zero. `fuel` bounds the trial subtractions (log entry 19); `none`: it ran out. With the answer comes the number of committed
subtractions (R132). -/
def subtractLoop (v : Limbs5) : Nat → Limbs5 → Option (Limbs5 × Nat)
  | 0, _ => none
  | fuel + 1, y =>
    let trial := sub5 y v
    if trial.2 then some (y, 0)
    else if val5 trial.1 = 0 then some (trial.1, 1)
    else (subtractLoop v fuel trial.1).map (fun q => (q.1, q.2 + 1))

/-- Phase 1 (R123): reduce mod P. -/
def phase1 (fuel : Nat) (y : Limbs5) (p : Limbs3) : Option (Limbs5 × Nat) := subtractLoop (zext3 p) fuel y

/-- Phase 2 (R124): reduce into [0, m). -/
def phase2 (fuel : Nat) (z : Limbs5) (m : Word) : Option (Limbs5 × Nat) := subtractLoop (zext1 m) fuel z

/-- The reference REDUCE (R124, R126): phase 2 of phase 1, then the assertion on limbs 1 to 4, then limb 0. It stands
below the checks of R127-R129. -/
def reduceRef (fuel1 fuel2 : Nat) (p : Limbs3) (m : Word) (y : Limbs5) : Option Reduction :=
  (phase1 fuel1 y p).bind fun z =>
    (phase2 fuel2 z.1 m).map fun w =>
      if highLimbsSet w.1 then .fault .assertHighLimbs else .ok w.1.l0

end Sys2Proof.Machine
end

