-- ==== Sys2Proof/Machine/Flags.lean ====
section
/-!
DEFINITION. The only flags of the core (R30): the STATUS word (R28), the cause codes (R29) and when a result register
reads as a draw (R23).
-/
namespace Sys2Proof.Machine

/-- One bit as a word. -/
def bit (b : Bool) : Word := if b then 1 else 0

/-- STATUS (R28): `zext_32( cause << 8 | (fsm=FAULT) << 2 | (fsm=DONE) << 1 | (fsm=BUSY) )`. -/
def statusWord (s : State) : Word :=
  (s.cause.setWidth 32 <<< 8) ||| (bit (s.fsm = .fault) <<< 2) ||| (bit (s.fsm = .done) <<< 1) |||
    bit (s.fsm = .busy)

/-- The code of a fault cause (R29, R200). -/
def FaultCause.code : FaultCause → BitVec 4
  | .illegalCmd => 1
  | .pZero => 2
  | .mZero => 3
  | .kBound => 4
  | .assertHighLimbs => 5

/-- Is a cause an operation fault, raised at completion (R169, R204)? All but ILLEGAL_CMD are. -/
def FaultCause.ofOperation : FaultCause → Bool
  | .illegalCmd => false
  | .pZero => true
  | .mZero => true
  | .kBound => true
  | .assertHighLimbs => true

/-- When a read of a result register is a draw (R23): while BUSY, or in FAULT with a cause in 2..5. -/
def resultsUnspecified (s : State) : Bool :=
  s.fsm = .busy || (s.fsm = .fault && (s.cause = 2 || s.cause = 3 || s.cause = 4 || s.cause = 5))

end Sys2Proof.Machine
end

