-- ==== Sys2Proof/Machine/Ops.lean ====
section
/-!
DEFINITION. The named operations over the state: draws and responses (R56, R57, R74), reset (R231), acceptance (R163),
fault entry (R204), the results of a completion (R168), and the stages of an operation (R160-R163, R167).
-/
namespace Sys2Proof.Machine

/-- Answer a transaction with an `rdata` the spec leaves unspecified: a fresh draw (R57, R70, U1-U3). -/
def respondDraw (err : Bool) (s : State) : State :=
  { s with response := some { err := err, rdata := Config.drawWord s.draws }, draws := s.draws + 1 }

/-- Complete a legal read with a value: `err = 0` (R57). -/
def ackRead (v : Word) (s : State) : State := { s with response := some { err := false, rdata := v } }

/-- Complete a read that returns `draw32()`: `err = 0` (R23, R57). -/
def ackDraw (s : State) : State := respondDraw false s

/-- Complete an accepted write: `err = 0`; `rdata` is unspecified on a write (R70). -/
def ackWrite (s : State) : State := respondDraw false s

/-- An access error (R56): `err = 1`, `rdata` unspecified, no state of the spec changed. -/
def accessError (s : State) : State := respondDraw true s

/-- Write an operand register (R58); nothing else changes. -/
def setOperand (o : OperandReg) (v : Word) (s : State) : State := { s with operands := s.operands.set o v }

/-- Reset (R231), the same for the `rst` pin and for SRESET (R230). The configuration, the draw counter, the port and
the turns to come are no part of it. -/
def applyReset (s : State) : State :=
  { s with operands := OperandRegs.reset, results := ResultRegs.reset, fsm := .idle, cause := 0, op := none }

/-- Accept an operation (R163): no operand or result register changes. -/
def accept (o : Op) (s : State) : State := { s with op := some o, fsm := .busy }

/-- The result registers become unspecified (R169, R204): each of the six holds a draw. DEDUCED (log entry 3). -/
def scrambleResults (s : State) : State :=
  { s with
    results :=
      { yo := ⟨Config.drawWord s.draws, Config.drawWord (s.draws + 1), Config.drawWord (s.draws + 2),
               Config.drawWord (s.draws + 3), Config.drawWord (s.draws + 4)⟩
        r := Config.drawWord (s.draws + 5) }
    draws := s.draws + 6 }

/-- Taking an exception: `raise Fault(c)` (R204). An operation fault leaves the result registers unspecified; an
illegal command leaves them as they were (R164). No control transfer happens and nothing else is saved. -/
def raiseFault (c : FaultCause) (s : State) : State :=
  let t := { s with fsm := .fault, cause := c.code, op := none }
  if c.ofOperation then scrambleResults t else t

/-- The end of a fault-free completion (R168): `fsm <- DONE`, and `cause` stays; no operation is in flight any more
(log entry 8). -/
def finish (s : State) : State := { s with fsm := .done, op := none }

/-- Write YO0-YO4 (R82, R168). -/
def writeYo (y : Limbs5) (s : State) : State := { s with results := { s.results with yo := y } }

/-- Write R (R82, R168). -/
def writeR (r : Word) (s : State) : State := { s with results := { s.results with r := r } }

/-- Is the core ready for a command: fsm ∈ {IDLE, DONE} (R160, R163)? -/
def State.ready (s : State) : Bool := s.fsm = .idle || s.fsm = .done

/-- The stages of an operation `o`, chosen by the state: in IDLE and DONE it is accepted (R163); in BUSY, when it is
the operation in flight, it completes (R167); otherwise the command is refused (R161, R162). A CMD write reaches this in
IDLE and DONE only, since in BUSY and FAULT the word is refused before it is decoded; the core agent's turn reaches it
in BUSY. DESIGN CHOICE (log entry 10). -/
def operate (o : Op) (complete : State → State) (s : State) : Host.Outcome State Fault Refusal :=
  match s.fsm with
  | .idle => .next (accept o s)
  | .done => .next (accept o s)
  | .busy => if s.op = some o then .next (complete s) else .next (accessError s)
  | .fault => .next (accessError s)

end Sys2Proof.Machine
end

