-- ==== Sys2Proof/Machine/Command.lean ====
section
/-!
DEFINITION. The meanings of the CMD words: NOP (R165), COMBINE (R100), REDUCE (R120) and HASH (R150).
-/
namespace Sys2Proof.Machine

/-- NOP (R165): `skip` in IDLE and DONE. In BUSY and FAULT the write is refused (R161, R162). -/
def execNop (s : State) : Host.Outcome State Fault Refusal :=
  if s.ready then .next s else .next (accessError s)

/-- COMBINE's completion (R100, R168): YO0-YO4 receive A·X + B; R keeps its value. -/
def completeCombine (s : State) : State :=
  finish (writeYo (combine s.operands.a s.operands.b s.operands.x) s)

/-- COMBINE (R100). -/
def execCombine (s : State) : Host.Outcome State Fault Refusal := operate .combine completeCombine s

/-- REDUCE's completion (R120): R receives (Yin mod P) mod m and YO0-YO4 keep their values (R168), or the first check
that applies faults (R130, R169). -/
def completeReduce (s : State) : State :=
  match reduce s.kBound s.operands.p s.operands.m s.operands.yi with
  | .ok r => finish (writeR r s)
  | .fault c => raiseFault c s

/-- REDUCE (R120). -/
def execReduce (s : State) : Host.Outcome State Fault Refusal := operate .reduce completeReduce s

/-- HASH's completion (R150): COMBINE's value goes to YO0-YO4 and its reduction to R; on a fault neither is written. YI
is not read (R152). -/
def completeHash (s : State) : State :=
  let y := combine s.operands.a s.operands.b s.operands.x
  match reduce s.kBound s.operands.p s.operands.m y with
  | .ok r => finish (writeR r (writeYo y s))
  | .fault c => raiseFault c s

/-- HASH (R150). -/
def execHash (s : State) : Host.Outcome State Fault Refusal := operate .hash completeHash s

end Sys2Proof.Machine
end

