-- ==== Sys2Proof/WellFormed.lean ====
section
/-!
DEFINITION. Which terms of `Instr` are instructions of spec/opcode_table.json. The four commands have no operand,
so only SRESET has a check: the table's row matches the CTRL words whose bit 0 is 1.
-/
namespace Sys2Proof

/-- The one check on syntax: a SRESET's word has d[0] = 1 (mask 0x00000001, match 0x00000001 in the table). -/
def Instr.wellFormed : Instr → Bool
  | .nop => true
  | .combine => true
  | .reduce => true
  | .hash => true
  | .sreset d => d.getLsbD 0

end Sys2Proof
end

