-- ==== Sys2Proof/Decode.lean ====
section
/-!
DEFINITION. Decoding and encoding of the words written to CMD (R75-R79) and to CTRL (R80). Both decoders are total;
a word that is no instruction is rejected by name.
-/
namespace Sys2Proof

/-- The register a word is written to, which fixes how it is read: a CMD word (R75) or a CTRL word (R80). -/
inductive WordPort where
  | cmd
  | ctrl
  deriving DecidableEq, Repr

/-- Why a word or a byte string is no instruction. -/
inductive DecodeReject where
  /-- A CMD word with RSV = c[31:4] ≠ 0 (R77). -/
  | reservedBits
  /-- A CMD word with RSV = 0 and OP in 0x4..0xF (R77). -/
  | reservedOp
  /-- A CTRL word with d[0] = 0: a legal write that does nothing (R80, R166). -/
  | noSoftReset
  /-- Fewer than the four bytes of a word (R83). -/
  | truncated
  deriving DecidableEq, Repr

/-- The answer of a decoder. -/
inductive Decoded where
  | instr (i : Instr)
  | reject (why : DecodeReject)
  deriving DecidableEq, Repr

/-- The instruction decoded, if there is one. -/
def Decoded.instr? : Decoded → Option Instr
  | .instr i => some i
  | .reject _ => none

/-- Field RSV = c[31:4] of a command word (R75). -/
def cmdRsv (c : Word) : BitVec 28 := c.extractLsb' 4 28

/-- Field OP = c[3:0] of a command word (R75). -/
def cmdOp (c : Word) : BitVec 4 := c.extractLsb' 0 4

/-- The decode function of R79; its ILLEGAL is a named rejection here. -/
def decodeCmd (c : Word) : Decoded :=
  if cmdRsv c ≠ 0 then .reject .reservedBits
  else if cmdOp c = 0x0 then .instr .nop
  else if cmdOp c = 0x1 then .instr .combine
  else if cmdOp c = 0x2 then .instr .reduce
  else if cmdOp c = 0x3 then .instr .hash
  else .reject .reservedOp

/-- The SRESET bit of a CTRL word, d[0] (R80). -/
def ctrlSreset (d : Word) : Bool := d.getLsbD 0

/-- A CTRL word requests a soft reset iff d[0] = 1; every other bit is ignored and no word is illegal (R80). -/
def decodeCtrl (d : Word) : Decoded :=
  if ctrlSreset d then .instr (.sreset d) else .reject .noSoftReset

/-- A word as read at the register it is written to. -/
def decode : WordPort → Word → Decoded
  | .cmd, c => decodeCmd c
  | .ctrl, d => decodeCtrl d

/-- A word from its byte lanes, lane 0 least significant (R54). -/
def wordOfLanes (b0 b1 b2 b3 : Byte) : Word := (b3 ++ b2 ++ b1 ++ b0 : BitVec 32)

/-- Byte lane k of a word, data[8k+7:8k] (R54). -/
def lane (w : Word) (k : Nat) : Byte := w.extractLsb' (8 * k) 8

/-- Decoding of bytes, lane 0 first: the instruction of the first four, or why there is none. R83: every command is
exactly one 32-bit word. -/
def decodeBytes (port : WordPort) : List Byte → Decoded
  | b0 :: b1 :: b2 :: b3 :: _ => decode port (wordOfLanes b0 b1 b2 b3)
  | _ => .reject .truncated

/-- The encoder, from the same tables (R76, R80): where an instruction is written, and the word. -/
def encode : Instr → WordPort × Word
  | .nop => (.cmd, 0x00000000)
  | .combine => (.cmd, 0x00000001)
  | .reduce => (.cmd, 0x00000002)
  | .hash => (.cmd, 0x00000003)
  | .sreset d => (.ctrl, d)

/-- The register a table row's word is written to. The table gives the CMD rows 32 fixed bits and the CTRL row one
(in whole bytes 8), and no bit of a word tells the two registers apart. DEDUCED (log entry 11). -/
def tablePort (nbits : Nat) : WordPort := if nbits < 32 then .ctrl else .cmd

/-- The instruction the decoder reads from a table row's bits `w`, laid out in byte lanes. -/
def decodeTableWord (nbits w : Nat) : Option Instr :=
  let c := BitVec.ofNat 32 w
  (decodeBytes (tablePort nbits) [lane c 0, lane c 1, lane c 2, lane c 3]).instr?

end Sys2Proof
end

