-- ==== Sys2Proof/Machine/Control.lean ====
section
/-!
DEFINITION. The meaning of a CTRL word: SRESET (R166).
-/
namespace Sys2Proof.Machine

/-- SRESET (R166): on d[0] = 1 reset, in every fsm state; otherwise `skip`. -/
def execSreset (d : Word) (s : State) : Host.Outcome State Fault Refusal :=
  if ctrlSreset d then .next (applyReset s) else .next s

end Sys2Proof.Machine
end

