-- ==== Sys2Proof/Machine/Dispatch.lean ====
section
/-! DEFINITION. The dispatch: one arm per instruction of spec/opcode_table.json. -/
namespace Sys2Proof.Machine

def exec (i : Instr) (s : State) : Host.Outcome State Fault Refusal :=
  match i with
  | .nop => Sys2Proof.Machine.execNop s
  | .combine => Sys2Proof.Machine.execCombine s
  | .reduce => Sys2Proof.Machine.execReduce s
  | .hash => Sys2Proof.Machine.execHash s
  | .sreset d => Sys2Proof.Machine.execSreset d s

end Sys2Proof.Machine
end

