-- ==== Sys2Proof/Machine/Bus.lean ====
section
/-!
DEFINITION. The register port and the two agents: reads and writes of the register space (R57, R58), CMD and CTRL
writes (R160-R166), the handshake at the pins (R70-R73), completion as the core's own turn (R167), and whose turn it is.
-/
namespace Sys2Proof.Machine

/-- A legal read (R57). It changes no state of the spec; a draw advances the model's draw counter. -/
def readReg (n : RegName) (s : State) : State :=
  match n with
  | .cmd => ackRead 0 s
  | .ctrl => ackRead 0 s
  | .status => ackRead (statusWord s) s
  | .operand o => ackRead (s.operands.get o) s
  | .result q => if resultsUnspecified s then ackDraw s else ackRead (s.results.get q) s

/-- A legal CMD write (R160): refused in BUSY (R161) and in FAULT (R162) before decoding; otherwise the word's
instruction runs, or the illegal word faults (R164). The write itself completes with `err = 0` (R163, R164). -/
def cmdWrite (c : Word) (s : State) : Host.Outcome State Fault Refusal :=
  if s.ready then
    match decodeCmd c with
    | .instr i => exec i (ackWrite s)
    | .reject _ => .next (raiseFault .illegalCmd (ackWrite s))
  else .next (accessError s)

/-- A legal CTRL write (R166): accepted in every fsm state, with `err = 0`. -/
def ctrlWrite (d : Word) (s : State) : Host.Outcome State Fault Refusal :=
  match decodeCtrl d with
  | .instr i => exec i (ackWrite s)
  | .reject _ => .next (ackWrite s)

/-- A write to an operand register (R58): refused while BUSY, accepted in IDLE, DONE and FAULT. -/
def operandWrite (o : OperandReg) (d : Word) (s : State) : State :=
  if s.fsm = .busy then accessError s else ackWrite (setOperand o d s)

/-- A legal write (R58). -/
def writeReg (n : RegName) (d : Word) (s : State) : Host.Outcome State Fault Refusal :=
  match n with
  | .cmd => cmdWrite d s
  | .ctrl => ctrlWrite d s
  | .status => .next (accessError s)
  | .operand o => .next (operandWrite o d s)
  | .result _ => .next (accessError s)

/-- One transaction, at its point of effect (R55-R58, R72). -/
def transact (t : Transaction) (s : State) : Host.Outcome State Fault Refusal :=
  match t.target with
  | none => .next (accessError s)
  | some n => if t.we then writeReg n t.wdata s else .next (readReg n s)

/-- The instruction an operation in flight came from (R32, R76). -/
def Op.instr : Op → Instr
  | .combine => .combine
  | .reduce => .reduce
  | .hash => .hash

/-- The core agent's turn (R167): completion, enabled iff fsm = BUSY; otherwise nothing happens. It is no transaction, so it
gives no response. DESIGN CHOICE (log entry 23): it may come whatever the port stands in, so also at an edge at which a
transaction has begun and is not yet at its point of effect. -/
def completion (s : State) : Host.Outcome State Fault Refusal :=
  if s.fsm = .busy then
    match s.op with
    | some o => exec o.instr { s with response := none }
    | none => .fault .noOperationInFlight
  else .next { s with response := none }

/-- The transaction presented at the pins (R70, R74). -/
def Pins.transaction (p : Pins) : Transaction := { we := p.we, addr := p.addr, be := p.be, wdata := p.wdata }

/-- The port after an edge at which a transaction is in progress and not in its ack cycle: acknowledged in the next cycle or not
(R71; ACK_LATENCY is open). -/
def awaitAck (ack : Bool) (t : Transaction) : Port := if ack then .acking t else .waiting t

/-- An edge that ends a cycle with `ack = 0`, with the port after it: no transaction takes effect (R72), and the levels that
`err` and `rdata` had in the cycle are used up (R73; log entry 24). -/
def quietEdge (p : Port) (s : State) : State := { s with port := p, response := none, draws := s.draws + 1 }

/-- A hardware reset at an edge with `rst = 1` (R73, R230): reset, and a transaction in progress is abandoned. -/
def hardwareReset (s : State) : State := quietEdge .idle (applyReset s)

/-- One rising edge of `clk` (R70-R73): `rst` resets; a transaction in its ack cycle takes effect and ends; one in progress
waits or is acknowledged next, whatever the pins then present (log entry 22); otherwise `req` begins one. -/
def clockEdge (p : Pins) (ack : Bool) (s : State) : Host.Outcome State Fault Refusal :=
  if p.rst then .next (hardwareReset s)
  else
    match s.port with
    | .idle => .next (quietEdge (if p.req then awaitAck ack p.transaction else .idle) s)
    | .waiting t => .next (quietEdge (awaitAck ack t) s)
    | .acking t => transact t { s with port := .idle }

/-- One turn. -/
def takeTurn : Turn → State → Host.Outcome State Fault Refusal
  | .edge p ack, s => clockEdge p ack s
  | .core, s => completion s

/-- The input pins with nothing asked. -/
def quietPins : Pins := { rst := false, req := false, we := false, addr := 0, be := 0, wdata := 0 }

/-- The turn when none is listed: an operation in flight completes once no transaction is in progress (R243), otherwise a clock
edge with nothing asked, which acknowledges a waiting transaction. DESIGN CHOICE (log entry 5). -/
def defaultTurn (s : State) : Turn :=
  if s.port = .idle ∧ s.fsm = .busy then .core else .edge quietPins true

/-- The next turn of the machine. -/
def runTurn (s : State) : Host.Outcome State Fault Refusal :=
  match s.inputs with
  | [] => takeTurn (defaultTurn s) s
  | t :: rest => takeTurn t { s with inputs := rest }

/-- The output pins (R70). -/
structure OutPins where
  ack : Bool
  err : Bool
  rdata : Word
  deriving DecidableEq, Repr

/-- The outputs while `ack = 0`: `err` and `rdata` are unspecified in each such cycle (R73, U5). DESIGN CHOICE (log entry 24):
they are free values of their own, with an index that `quietEdge` moves on at the end of the cycle, so that nothing relates
them to those of another cycle or to a draw. -/
def quietOutputs (s : State) : OutPins :=
  { ack := false, err := Config.idleErr s.draws, rdata := Config.idleWord s.draws }

/-- The output pins in the cycle that `s` stands in, after the core agent's turn at the edge before it if it took one (log entry
23), at a level of `rst` (R70, R72, R73): in an ack cycle `ack = 1` with the
response of the transaction on the state as it stands; `ack = 0` otherwise and while `rst = 1`. -/
def outputs (rst : Bool) (s : State) : OutPins :=
  if rst then quietOutputs s
  else
    match s.port with
    | .idle => quietOutputs s
    | .waiting _ => quietOutputs s
    | .acking t =>
      match transact t s with
      | .next s' =>
        match s'.response with
        | some q => { ack := true, err := q.err, rdata := q.rdata }
        | none => quietOutputs s
      | .fault _ => quietOutputs s
      | .refused _ => quietOutputs s

end Sys2Proof.Machine
end

