-- ==== Sys2Proof/Machine/Step.lean ====
section
/-!
DEFINITION. The machine's step: the next turn (Machine/Bus.lean); and where the host of this pipeline places an instruction.
-/
namespace Sys2Proof.Machine

/-- One step of the machine: its next turn. -/
def step (s : State) : Host.Outcome State Fault Refusal := runTurn s

/-- The state `s` in the ack cycle of a host write of the word `w` to the register the table row is written to, with a plain
clock edge next, so that the very next step runs that instruction (log entry 12). -/
def State.withFetchWord (s : State) (nbits w : Nat) : State :=
  let n : RegName := match tablePort nbits with
    | .cmd => .cmd
    | .ctrl => .ctrl
  { s with
    port := .acking { we := true, addr := n.offset, be := 0b1111, wdata := BitVec.ofNat 32 w }
    inputs := .edge quietPins true :: s.inputs }

end Sys2Proof.Machine
end

