-- ==== Sys2Proof/Machine/HostSyntax.lean ====
section
/-!
DEFINITION. The host-sequence syntax (R84), its pseudo-instructions (R85), and how the host runs a program at transaction level.
Control flow is the host's, not the core's: the core sees only the transactions (log entry 18).
-/
namespace Sys2Proof.Machine

/-- The name a `<label>:` line defines (R84): a word, or a numeric label that may be defined more than once. -/
inductive Label where
  | named (s : String)
  | numeric (n : Nat)
  deriving DecidableEq, Repr

/-- A reference to a label (R84): by word, or `<n>b`, the nearest preceding `<n>:`. -/
inductive LabelRef where
  | named (s : String)
  | back (n : Nat)
  deriving DecidableEq, Repr

/-- The base statements (R84). A label on the line of the statement it names is a `label` before that statement. -/
inductive HostStmt where
  | wr (reg : RegName) (imm : Word)
  | rd (reg : RegName)
  | wrRaw (addr : BitVec 8) (be : BitVec 4) (imm : Word)
  | rdRaw (addr : BitVec 8) (be : BitVec 4)
  | label (l : Label)
  | bnz (reg : RegName) (mask : Word) (target : LabelRef)
  deriving DecidableEq, Repr

/-- `W <offset(REG)> F <imm32>` (R74, R84). -/
def writeOf (reg : RegName) (imm : Word) : Transaction :=
  { we := true, addr := reg.offset, be := 0b1111, wdata := imm }

/-- `R <offset(REG)> F` (R74, R84); a read carries no write data. -/
def readOf (reg : RegName) : Transaction := { we := false, addr := reg.offset, be := 0b1111, wdata := 0 }

/-- The transaction of a statement (R84); a label has none. -/
def HostStmt.transaction : HostStmt → Option Transaction
  | .wr reg imm => some (writeOf reg imm)
  | .rd reg => some (readOf reg)
  | .wrRaw addr be imm => some { we := true, addr := addr, be := be, wdata := imm }
  | .rdRaw addr be => some { we := false, addr := addr, be := be, wdata := 0 }
  | .label _ => none
  | .bnz reg _ _ => some (readOf reg)

/-- The pseudo-instructions (R85). -/
inductive Pseudo where
  | nop | combine | reduce | hash | srst | wait
  | ldA (v : BitVec 96) | ldB (v : BitVec 96) | ldX (v : BitVec 64) | ldP (v : BitVec 96) | ldM (v : Word)
  | ldYi (v : BitVec 160)
  | stYo | stR
  deriving DecidableEq, Repr

/-- Limb i of a wide immediate, `v[32i+31:32i]` (R85). -/
def limbOf {n : Nat} (v : BitVec n) (i : Nat) : Word := v.extractLsb' (32 * i) 32

/-- The expansion of a pseudo-instruction (R85). -/
def Pseudo.expand : Pseudo → List HostStmt
  | .nop => [.wr .cmd 0x00000000]
  | .combine => [.wr .cmd 0x00000001]
  | .reduce => [.wr .cmd 0x00000002]
  | .hash => [.wr .cmd 0x00000003]
  | .srst => [.wr .ctrl 0x00000001]
  | .wait => [.label (.numeric 1), .bnz .status 0x1 (.back 1)]
  | .ldA v => [.wr (.operand .a0) (limbOf v 0), .wr (.operand .a1) (limbOf v 1), .wr (.operand .a2) (limbOf v 2)]
  | .ldB v => [.wr (.operand .b0) (limbOf v 0), .wr (.operand .b1) (limbOf v 1), .wr (.operand .b2) (limbOf v 2)]
  | .ldX v => [.wr (.operand .x0) (limbOf v 0), .wr (.operand .x1) (limbOf v 1)]
  | .ldP v => [.wr (.operand .p0) (limbOf v 0), .wr (.operand .p1) (limbOf v 1), .wr (.operand .p2) (limbOf v 2)]
  | .ldM v => [.wr (.operand .m) v]
  | .ldYi v =>
    [.wr (.operand .yi0) (limbOf v 0), .wr (.operand .yi1) (limbOf v 1), .wr (.operand .yi2) (limbOf v 2),
     .wr (.operand .yi3) (limbOf v 3), .wr (.operand .yi4) (limbOf v 4)]
  | .stYo =>
    [.rd (.result .yo0), .rd (.result .yo1), .rd (.result .yo2), .rd (.result .yo3), .rd (.result .yo4)]
  | .stR => [.rd (.result .r)]

/-- Does the line define the label? -/
def HostStmt.defines (l : Label) : HostStmt → Bool
  | .label l' => l' = l
  | .wr _ _ => false
  | .rd _ => false
  | .wrRaw _ _ _ => false
  | .rdRaw _ _ => false
  | .bnz _ _ _ => false

/-- The position a reference made at line `pos` names (R84): for `<n>b` the nearest definition before `pos`; for a word its first
definition (log entry 18). -/
def resolve (prog : List HostStmt) (pos : Nat) : LabelRef → Option Nat
  | .named s => prog.findIdx? (HostStmt.defines (.named s))
  | .back n =>
    (((prog.take pos).reverse.findIdx? (HostStmt.defines (.numeric n))).map fun k => min pos prog.length - 1 - k)

/-- A program is well formed when every `bnz` names a label that is there. -/
def programWellFormed (prog : List HostStmt) : Bool :=
  (List.range prog.length).all fun pos =>
    match prog[pos]? with
    | some (.bnz _ _ ref) => (resolve prog pos ref).isSome
    | _ => true

/-- Where the host goes on after a statement (R84): a `bnz` whose read answered a value with `(value & mask) ≠ 0` continues at its
label, every other statement at the next line. -/
def nextPos (prog : List HostStmt) (pos : Nat) (st : HostStmt) (answer : Option Response) : Nat :=
  match st, answer with
  | .bnz _ mask ref, some q =>
    if q.err = false ∧ q.rdata &&& mask ≠ 0 then (resolve prog pos ref).getD (pos + 1) else pos + 1
  | _, _ => pos + 1

/-- The host runs the line at `pos`: its transaction, then the next position. Past the end it does nothing. -/
def hostStep (prog : List HostStmt) (pos : Nat) (s : State) : Host.Outcome (State × Nat) Fault Refusal :=
  match prog[pos]? with
  | none => .next (s, pos)
  | some st =>
    match st.transaction with
    | none => .next (s, pos + 1)
    | some t =>
      match transact t s with
      | .next s' => .next (s', nextPos prog pos st s'.response)
      | .fault r => .fault r
      | .refused r => .refused r

/-- Who moves next in a run of a program: the host, by its next line, or the core, by its completion step (R167). Every order is
allowed (U9). -/
inductive Mover where
  | host
  | core
  deriving DecidableEq, Repr

/-- A run of a program from a position, in a given order of moves (R84, R167); log entry 18. -/
def runProgram (prog : List HostStmt) : List Mover → State → Nat → Host.Outcome (State × Nat) Fault Refusal
  | [], s, pos => .next (s, pos)
  | .host :: rest, s, pos =>
    match hostStep prog pos s with
    | .next q => runProgram prog rest q.1 q.2
    | .fault r => .fault r
    | .refused r => .refused r
  | .core :: rest, s, pos =>
    match completion s with
    | .next s' => runProgram prog rest s' pos
    | .fault r => .fault r
    | .refused r => .refused r

/-- The statements of a straight-line sequence, one transaction each, in order (R61, R84). -/
def runStmts : List HostStmt → State → Host.Outcome State Fault Refusal
  | [], s => .next s
  | st :: rest, s =>
    match st.transaction with
    | none => runStmts rest s
    | some t =>
      match transact t s with
      | .next s' => runStmts rest s'
      | .fault r => .fault r
      | .refused r => .refused r

end Sys2Proof.Machine
end

