-- ==== Sys2Proof/Safety.lean ====
section
/-!
DEFINITION. What counts as a good state and which events a step can be, in the terms the statements use.
-/
namespace Sys2Proof.Machine

/-- The invariant of the control state: `cause ≠ 0` iff FAULT and no reserved code is reported (R29), and an operation is recorded
iff BUSY (R20; that none is recorded otherwise is the model's own, log entry 8). -/
abbrev State.Inv (s : State) : Prop :=
  (s.cause ≠ 0 ↔ s.fsm = .fault) ∧ s.cause.toNat ≤ 5 ∧ (s.op.isSome = true ↔ s.fsm = .busy)

/-- The turn the next step takes. -/
def State.nextTurn (s : State) : Turn :=
  match s.inputs with
  | [] => defaultTurn s
  | t :: _ => t

/-- The transaction the next step acknowledges, if it does one: an edge with `rst = 0` that ends an ack cycle (R72, R73). -/
def State.acknowledges (s : State) : Option Transaction :=
  match s.nextTurn, s.port with
  | .edge p _, .acking t => if p.rst then none else some t
  | .edge _ _, .idle => none
  | .edge _ _, .waiting _ => none
  | .core, _ => none

/-- The next step is an edge with `rst = 1` (R230). -/
def State.rstNext (s : State) : Bool :=
  match s.nextTurn with
  | .edge p _ => p.rst
  | .core => false

/-- The next step is a reset, by the pin or by SRESET (R230). -/
def State.resetsNext (s : State) : Bool :=
  s.rstNext ||
    match s.acknowledges with
    | some t => t.we && t.target = some .ctrl && ctrlSreset t.wdata
    | none => false

/-- The next step is a completion (R167). -/
def State.completesNext (s : State) : Bool := s.nextTurn = .core && s.fsm = .busy

/-- The command word the next step presents at CMD by a legal write (R26), if it does. -/
def State.commandNext (s : State) : Option Word :=
  match s.acknowledges with
  | some t => if t.we ∧ t.target = some .cmd then some t.wdata else none
  | none => none

/-- The operand register the next step presents a legal write to, with the word (R58), if it does. -/
def State.operandNext (s : State) : Option (OperandReg × Word) :=
  match s.acknowledges with
  | some t =>
    match t.target with
    | some (.operand o) => if t.we then some (o, t.wdata) else none
    | some .cmd => none
    | some .ctrl => none
    | some .status => none
    | some (.result _) => none
    | none => none
  | none => none

/-- The value the operation in flight reduces (R120, R151): Yin for REDUCE, A·X + B for HASH; COMBINE reduces none. -/
def State.toReduce (s : State) : Op → Nat
  | .combine => 0
  | .reduce => s.valYin
  | .hash => s.valA * s.valX + s.valB

/-- A safe step: the machine goes on. -/
def State.StepsOn (s : State) : Prop := ∃ t, step s = .next t

end Sys2Proof.Machine
end

