-- ==== Sys2Proof/Certificates/Slice0/Obligations.lean ====
section
/-!
DEFINITION. The statements about the model, from the numbered rules of the spec. Throughout, the fields `draws` and
`response` and the constant `Config.drawWord` are the model's form of the spec's unspecified values and of the answer to a
transaction (log entries 2, 6, 17 and 24); nothing is claimed of a draw's value. `port`, `inputs` and `Turn` are the model's
form of the handshake and of the open timing (log entries 4 and 7).
-/
open Sys2Proof Sys2Proof.Machine

/-! ## Encoding (30_encoding.md) -/

/-- R76, R80: the words of the operation map, and the canonical SRESET word, written out. -/
def Obligations.CommandWordsDecode : Prop :=
  decodeCmd 0x00000000 = .instr .nop ∧ decodeCmd 0x00000001 = .instr .combine ∧
  decodeCmd 0x00000002 = .instr .reduce ∧ decodeCmd 0x00000003 = .instr .hash ∧
  decodeCtrl 0x00000001 = .instr (.sreset 0x00000001) ∧ decodeCmd 0x00000010 = .reject .reservedBits ∧
  decodeCmd 0x0000000F = .reject .reservedOp

/-- R54, R76, R80, R83: every well-formed instruction's word, laid out in byte lanes, decodes to it. -/
def Obligations.EncodeThenDecodeBytes : Prop :=
  ∀ i : Instr, i.wellFormed = true →
    decodeBytes (encode i).1 [lane (encode i).2 0, lane (encode i).2 1, lane (encode i).2 2, lane (encode i).2 3]
      = .instr i

/-- R76, R80: a word that decodes is the encoding of what it decodes to, and that is well formed. -/
def Obligations.DecodeThenEncode : Prop :=
  ∀ (port : WordPort) (w : Word) (i : Instr), decode port w = .instr i →
    i.wellFormed = true ∧ encode i = (port, w)

/-- R77: a word with c[31:4] ≠ 0 or c[3:0] ≥ 4 is no instruction, every other word is one, and written to CMD in IDLE or DONE the
former raises ILLEGAL_CMD. -/
def Obligations.IllegalWordsFault : Prop :=
  ∀ c : Word,
    ((c.extractLsb' 4 28 ≠ 0 ∨ 4 ≤ (c.extractLsb' 0 4).toNat) ↔ ∀ i, decodeCmd c ≠ .instr i) ∧
    ∀ s : State, (c.extractLsb' 4 28 ≠ 0 ∨ 4 ≤ (c.extractLsb' 0 4).toNat) → (s.fsm = .idle ∨ s.fsm = .done) →
      ∃ o, transact (writeOf .cmd c) s = .next { s with
        fsm := .fault, cause := 1, op := o, draws := s.draws + 1,
        response := some { err := false, rdata := Config.drawWord s.draws } }

/-- R164: after an illegal command STATUS is 0x104 and every result register still reads its stored value. -/
def Obligations.IllegalCommandKeepsResults : Prop :=
  ∀ (c : Word) (s : State) (w : DecodeReject), decodeCmd c = .reject w → (s.fsm = .idle ∨ s.fsm = .done) →
    ∃ t, transact (writeOf .cmd c) s = .next t ∧ statusWord t = 0x00000104 ∧ t.results = s.results ∧
      t.operands = s.operands ∧ t.response = some { err := false, rdata := Config.drawWord s.draws } ∧
      ∀ q, transact (readOf (.result q)) t =
        .next { t with response := some { err := false, rdata := s.results.get q } }

/-! ## Register space (20_memory.md, 10_state.md) -/

/-- R51, R53: every register's offset as the table of R51 lists it, so that limb i of a quantity stands at base + 4·i; every other
offset is unmapped; each register holds its limb; every register answers a read, CMD and CTRL with 0; and in IDLE exactly the
registers the table marks R refuse a write. -/
def Obligations.RegisterMapIsOneToOne : Prop :=
  (RegName.cmd.offset = 0x00 ∧ RegName.ctrl.offset = 0x04 ∧ RegName.status.offset = 0x08 ∧
    OperandReg.a0.offset = 0x10 ∧ OperandReg.a1.offset = 0x14 ∧ OperandReg.a2.offset = 0x18 ∧
    OperandReg.b0.offset = 0x20 ∧ OperandReg.b1.offset = 0x24 ∧ OperandReg.b2.offset = 0x28 ∧
    OperandReg.x0.offset = 0x30 ∧ OperandReg.x1.offset = 0x34 ∧
    OperandReg.p0.offset = 0x40 ∧ OperandReg.p1.offset = 0x44 ∧ OperandReg.p2.offset = 0x48 ∧
    OperandReg.m.offset = 0x50 ∧
    OperandReg.yi0.offset = 0x60 ∧ OperandReg.yi1.offset = 0x64 ∧ OperandReg.yi2.offset = 0x68 ∧
    OperandReg.yi3.offset = 0x6C ∧ OperandReg.yi4.offset = 0x70 ∧
    ResultReg.yo0.offset = 0x80 ∧ ResultReg.yo1.offset = 0x84 ∧ ResultReg.yo2.offset = 0x88 ∧
    ResultReg.yo3.offset = 0x8C ∧ ResultReg.yo4.offset = 0x90 ∧
    ResultReg.r.offset = 0xA0) ∧
  (∀ o : OperandReg, (RegName.operand o).offset = o.offset) ∧
  (∀ q : ResultReg, (RegName.result q).offset = q.offset) ∧
  (∀ (a : BitVec 8) (n : RegName), regAt a = some n ↔ a = n.offset) ∧
  (∀ n n' : RegName, n.offset = n'.offset → n = n') ∧
  (∀ s : State,
    s.valA = (s.operands.get .a0).toNat + 2 ^ 32 * (s.operands.get .a1).toNat + 2 ^ 64 * (s.operands.get .a2).toNat ∧
    s.valB = (s.operands.get .b0).toNat + 2 ^ 32 * (s.operands.get .b1).toNat + 2 ^ 64 * (s.operands.get .b2).toNat ∧
    s.valX = (s.operands.get .x0).toNat + 2 ^ 32 * (s.operands.get .x1).toNat ∧
    s.valP = (s.operands.get .p0).toNat + 2 ^ 32 * (s.operands.get .p1).toNat + 2 ^ 64 * (s.operands.get .p2).toNat ∧
    s.valM = (s.operands.get .m).toNat ∧
    s.valYin = (s.operands.get .yi0).toNat + 2 ^ 32 * (s.operands.get .yi1).toNat + 2 ^ 64 * (s.operands.get .yi2).toNat
      + 2 ^ 96 * (s.operands.get .yi3).toNat + 2 ^ 128 * (s.operands.get .yi4).toNat ∧
    val5 s.results.yo = (s.results.get .yo0).toNat + 2 ^ 32 * (s.results.get .yo1).toNat
      + 2 ^ 64 * (s.results.get .yo2).toNat + 2 ^ 96 * (s.results.get .yo3).toNat + 2 ^ 128 * (s.results.get .yo4).toNat ∧
    s.results.r = s.results.get .r) ∧
  (∀ (n : RegName) (s : State), ∃ t q, transact (readOf n) s = .next t ∧ t.response = some q ∧ q.err = false ∧
    (n = .cmd ∨ n = .ctrl → q.rdata = 0)) ∧
  (∀ (n : RegName) (v : Word) (s : State), s.fsm = .idle →
    ∃ t q, transact (writeOf n v) s = .next t ∧ t.response = some q ∧
      (q.err = true ↔ n = .status ∨ ∃ q', n = .result q'))

/-- R55, R56: a transaction that is misaligned, not a full word, or at an unmapped address ends with `err = 1`, an unspecified
`rdata`, and no state changed. -/
def Obligations.IllegalAccessHasNoEffect : Prop :=
  ∀ (t : Transaction) (s : State),
    (t.addr.extractLsb' 0 2 ≠ 0 ∨ t.be ≠ 0b1111 ∨ ∀ n : RegName, t.addr ≠ n.offset) →
    transact t s = .next { s with
      draws := s.draws + 1, response := some { err := true, rdata := Config.drawWord s.draws } }

/-- R57, R74: what a legal read returns at every register, whatever its `wdata`, with `err = 0` and no state changed. -/
def Obligations.LegalReadsReturn : Prop :=
  ∀ (s : State) (t : Transaction), t.we = false →
    (t.target = some .cmd → transact t s = .next { s with response := some { err := false, rdata := 0x00000000 } }) ∧
    (t.target = some .ctrl → transact t s = .next { s with response := some { err := false, rdata := 0x00000000 } }) ∧
    (t.target = some .status → transact t s = .next { s with response := some { err := false, rdata := statusWord s } }) ∧
    (∀ o, t.target = some (.operand o) →
      transact t s = .next { s with response := some { err := false, rdata := s.operands.get o } }) ∧
    ∀ q, t.target = some (.result q) →
      ((s.fsm = .busy ∨ (s.fsm = .fault ∧ s.cause ∈ [2, 3, 4, 5])) →
        transact t s = .next { s with
          draws := s.draws + 1, response := some { err := false, rdata := Config.drawWord s.draws } }) ∧
      (¬ (s.fsm = .busy ∨ (s.fsm = .fault ∧ s.cause ∈ [2, 3, 4, 5])) →
        transact t s = .next { s with response := some { err := false, rdata := s.results.get q } })

/-- R60: a read, legal or not, changes no state of the machine. -/
def Obligations.ReadsHaveNoSideEffect : Prop :=
  ∀ (t : Transaction) (s : State), t.we = false →
    ∃ q d, transact t s = .next { s with response := some q, draws := d }

/-- R58, R24: an accepted operand write puts the word into the named register, and into no other. -/
def Obligations.OperandWriteWritesOneRegister : Prop :=
  ∀ (o : OperandReg) (v : Word) (s : State), s.fsm ≠ .busy →
    ∃ t, transact (writeOf (.operand o) v) s = .next t ∧ t.operands.get o = v ∧
      (∀ o', o' ≠ o → t.operands.get o' = s.operands.get o') ∧
      t = { s with
        operands := t.operands, draws := s.draws + 1,
        response := some { err := false, rdata := Config.drawWord s.draws } }

/-- R58, R238: an operand write while BUSY is refused, with no effect. -/
def Obligations.OperandWriteRefusedWhileBusy : Prop :=
  ∀ (o : OperandReg) (v : Word) (s : State), s.fsm = .busy →
    transact (writeOf (.operand o) v) s = .next { s with
      draws := s.draws + 1, response := some { err := true, rdata := Config.drawWord s.draws } }

/-- R22, R58: a write to STATUS or to a result register is an access error. -/
def Obligations.ReadOnlyRegistersRefuseWrites : Prop :=
  ∀ (n : RegName) (v : Word) (s : State), (n = .status ∨ ∃ q, n = .result q) →
    transact (writeOf n v) s = .next { s with
      draws := s.draws + 1, response := some { err := true, rdata := Config.drawWord s.draws } }

/-- R28: STATUS bit by bit; at most one of BUSY, DONE, FAULT is 1 and none exactly when IDLE; CAUSE is 0 unless in FAULT; a write
to STATUS is refused; after reset it is 0. -/
def Obligations.StatusFields : Prop :=
  ∀ s : State, s.Inv →
    (statusWord s).getLsbD 0 = decide (s.fsm = .busy) ∧
    (statusWord s).getLsbD 1 = decide (s.fsm = .done) ∧
    (statusWord s).getLsbD 2 = decide (s.fsm = .fault) ∧
    (statusWord s).extractLsb' 3 5 = 0 ∧
    (statusWord s).extractLsb' 8 4 = s.cause ∧
    (s.fsm ≠ .fault → (statusWord s).extractLsb' 8 4 = 0) ∧
    (statusWord s).extractLsb' 12 20 = 0 ∧
    (((statusWord s).getLsbD 0 = false ∧ (statusWord s).getLsbD 1 = false ∧ (statusWord s).getLsbD 2 = false) ↔
      s.fsm = .idle) ∧
    (∀ v, transact (writeOf .status v) s = .next { s with
      draws := s.draws + 1, response := some { err := true, rdata := Config.drawWord s.draws } }) ∧
    statusWord State.reset = 0

/-! ## Reset (70_reset_and_hazards.md, 10_state.md) -/

/-- R34: after reset the machine is IDLE with cause 0 and no operation, and every register of the map reads zero. -/
def Obligations.ResetRegistersReadZero : Prop :=
  State.reset.fsm = .idle ∧ State.reset.cause = 0 ∧ State.reset.op = none ∧
  ∀ n : RegName, transact (readOf n) State.reset =
    .next { State.reset with response := some { err := false, rdata := 0x00000000 } }

/-- R73, R231: an edge with `rst = 1` resets every register, from every state, and abandons the transaction in progress. (That
the answer is then `none` and the index of free values moves on is the model's choice, log entries 6 and 24.) -/
def Obligations.HardwareResetFromEveryState : Prop :=
  ∀ (s : State) (p : Pins) (ack : Bool) (rest : List Turn), p.rst = true → s.inputs = .edge p ack :: rest →
    step s = .next
      { operands := State.reset.operands, results := State.reset.results, fsm := .idle, cause := 0, op := none
        kBound := s.kBound, draws := s.draws + 1, port := .idle, response := none, inputs := rest }

/-- R80, R166: SRESET's result: with d[0] = 1 every register is reset, in every fsm state, and STATUS is 0; with d[0] = 0 nothing
happens; the CTRL write ends with `err = 0` and does just that. (That the meaning of a term with d[0] = 0, which no word decodes
to, does nothing is the model's own reading, log entry 21.) -/
def Obligations.SoftResetResult : Prop :=
  ∀ (d : Word) (s : State),
    (d.getLsbD 0 = true → exec (.sreset d) s = .next
      { s with operands := State.reset.operands, results := State.reset.results, fsm := .idle, cause := 0, op := none }) ∧
    (d.getLsbD 0 = false → exec (.sreset d) s = .next s) ∧
    (d.getLsbD 0 = true → ∃ t, transact (writeOf .ctrl d) s = .next t ∧ statusWord t = 0x00000000 ∧
      t = { s with
        operands := State.reset.operands, results := State.reset.results, fsm := .idle, cause := 0, op := none
        draws := s.draws + 1, response := some { err := false, rdata := Config.drawWord s.draws } }) ∧
    (d.getLsbD 0 = false → transact (writeOf .ctrl d) s = .next { s with
      draws := s.draws + 1, response := some { err := false, rdata := Config.drawWord s.draws } })

/-- R230, R231, R232: whichever way the reset comes, the machine is left as reset leaves it, and nothing of an operation in flight
is written. -/
def Obligations.BothResetsHaveTheSameEffect : Prop :=
  ∀ s : State, s.resetsNext = true →
    ∃ t, step s = .next t ∧ t.operands = State.reset.operands ∧ t.results = State.reset.results ∧
      t.fsm = .idle ∧ t.cause = 0 ∧ t.op = none ∧ statusWord t = 0x00000000

/-! ## The instructions (40_combine.md to 43_control.md) -/

/-- R165: NOP in IDLE or DONE changes nothing. -/
def Obligations.NopChangesNothing : Prop :=
  ∀ s : State, (s.fsm = .idle ∨ s.fsm = .done) → exec .nop s = .next s

/-- R163: COMBINE, REDUCE and HASH are accepted in IDLE and DONE: the operation is recorded and the core is BUSY, and nothing else
changes but the answer to the write. -/
def Obligations.OperationsAreAccepted : Prop :=
  ∀ (o : Op) (s : State), (s.fsm = .idle ∨ s.fsm = .done) →
    exec o.instr s = .next { s with op := some o, fsm := .busy } ∧
    transact (writeOf .cmd (encode o.instr).2) s = .next { s with
      op := some o, fsm := .busy, draws := s.draws + 1,
      response := some { err := false, rdata := Config.drawWord s.draws } }

/-- R100, R101: COMBINE in flight completes: YO holds exactly A·X + B, no bit dropped, the core is DONE, and nothing else
changed but the record of the operation in flight. -/
def Obligations.CombineResult : Prop :=
  ∀ s : State, s.fsm = .busy → s.op = some .combine →
    ∃ t, exec .combine s = .next t ∧ val5 t.results.yo = s.valA * s.valX + s.valB ∧
      t = { s with results := { s.results with yo := t.results.yo }, fsm := .done, op := t.op }

/-- R120, R121, R168: REDUCE in flight, with P and m nonzero and Yin within the K_BOUND check, completes: R holds (Yin mod P) mod m,
the core is DONE, and nothing else changed but the record of the operation in flight. -/
def Obligations.ReduceResult : Prop :=
  ∀ s : State, s.fsm = .busy → s.op = some .reduce → s.valP ≠ 0 → s.valM ≠ 0 →
    (∀ b, s.kBound = some b → s.valYin < b.k * s.valP) →
    ∃ t, exec .reduce s = .next t ∧ t.results.r.toNat = s.valYin % s.valP % s.valM ∧
      t = { s with results := { s.results with r := t.results.r }, fsm := .done, op := t.op }

/-- R150, R151, R168: HASH in flight, with P and m nonzero and A·X + B within the K_BOUND check, completes: YO holds A·X + B, R holds
((A·X + B) mod P) mod m, the core is DONE, and nothing else changed but the record of the operation in flight. -/
def Obligations.HashResult : Prop :=
  ∀ s : State, s.fsm = .busy → s.op = some .hash → s.valP ≠ 0 → s.valM ≠ 0 →
    (∀ b, s.kBound = some b → s.valA * s.valX + s.valB < b.k * s.valP) →
    ∃ t, exec .hash s = .next t ∧ val5 t.results.yo = s.valA * s.valX + s.valB ∧
      t.results.r.toNat = (s.valA * s.valX + s.valB) % s.valP % s.valM ∧
      t = { s with results := t.results, fsm := .done, op := t.op }

/-- R127, R151: with P = 0, REDUCE and HASH fault with P_ZERO, whatever Y, m and K_BOUND are; operands, port and inputs
are kept. -/
def Obligations.ZeroPFaults : Prop :=
  ∀ (s : State) (o : Op), s.fsm = .busy → s.op = some o → o ≠ .combine → s.valP = 0 →
    ∃ t, exec o.instr s = .next t ∧
      t = { s with fsm := .fault, cause := 2, op := t.op, results := t.results, draws := t.draws }

/-- R128, R130, R151: with m = 0 and P ≠ 0, REDUCE and HASH fault with M_ZERO, whatever Y and K_BOUND are. -/
def Obligations.ZeroMFaults : Prop :=
  ∀ (s : State) (o : Op), s.fsm = .busy → s.op = some o → o ≠ .combine → s.valP ≠ 0 → s.valM = 0 →
    ∃ t, exec o.instr s = .next t ∧
      t = { s with fsm := .fault, cause := 3, op := t.op, results := t.results, draws := t.draws }

/-- R129, R130, R151: with K_BOUND = k, P and m nonzero, REDUCE and HASH fault with K_BOUND exactly when Y ≥ k·P, that is when
phase 1 would need floor(Y/P) ≥ k commits; with K_BOUND = NONE they never do. -/
def Obligations.IterationBoundFaults : Prop :=
  (∀ (s : State) (o : Op) (b : IterBound), s.fsm = .busy → s.op = some o → o ≠ .combine → s.valP ≠ 0 → s.valM ≠ 0 →
    s.kBound = some b →
    ∃ t, exec o.instr s = .next t ∧ (b.k * s.valP ≤ s.toReduce o ↔ b.k ≤ s.toReduce o / s.valP) ∧
      (b.k * s.valP ≤ s.toReduce o →
        t = { s with fsm := .fault, cause := 4, op := t.op, results := t.results, draws := t.draws }) ∧
      (¬ b.k * s.valP ≤ s.toReduce o → t.fsm = .done)) ∧
  (∀ (s : State) (o : Op), s.fsm = .busy → s.op = some o → s.kBound = none →
    ∃ t, exec o.instr s = .next t ∧ ¬ (t.fsm = .fault ∧ t.cause = 4))

/-- R153: what an operation in flight ends in depends on the operand registers and K_BOUND alone. -/
def Obligations.OutcomeDependsOnOperandsOnly : Prop :=
  ∀ (s u : State) (o : Op), s.fsm = .busy → u.fsm = .busy → s.op = some o → u.op = some o →
    s.operands = u.operands → s.kBound = u.kBound →
    ∃ t v, exec o.instr s = .next t ∧ exec o.instr u = .next v ∧ t.fsm = v.fsm ∧
      (t.fsm = .done → (o ≠ .reduce → t.results.yo = v.results.yo) ∧ (o ≠ .combine → t.results.r = v.results.r)) ∧
      (t.fsm = .fault → t.cause = v.cause)

/-- R152: a REDUCE of the YO that a fault-free HASH left, with the same P, m and K_BOUND, gives the same R. -/
def Obligations.ReduceOfHashAccumulatorAgrees : Prop :=
  ∀ s t u : State, s.fsm = .busy → s.op = some .hash → exec .hash s = .next t → t.fsm = .done →
    u.fsm = .busy → u.op = some .reduce → u.operands.p = s.operands.p → u.operands.m = s.operands.m →
    u.kBound = s.kBound → u.operands.yi = t.results.yo →
    ∃ v, exec .reduce u = .next v ∧ v.fsm = .done ∧ v.results.r = t.results.r

/-- R161, R162: a CMD write of any word, legal or not, is refused with `err = 1` in BUSY and in FAULT, and changes nothing. -/
def Obligations.CommandsRefusedInBusyAndFault : Prop :=
  ∀ (c : Word) (s : State), (s.fsm = .busy ∨ s.fsm = .fault) →
    transact (writeOf .cmd c) s = .next { s with
      draws := s.draws + 1, response := some { err := true, rdata := Config.drawWord s.draws } }

/-! ## Faults (60_exceptions.md) -/

/-- R205: a fault with cause c is visible as STATUS = 0x00000004 | (c << 8). -/
def Obligations.FaultStatusWord : Prop :=
  ∀ (c : FaultCause) (s : State),
    statusWord (raiseFault c s) = 0x00000004 ||| (c.code.setWidth 32 <<< 8) ∧
    (statusWord (raiseFault c s)).getLsbD 0 = false ∧ (statusWord (raiseFault c s)).getLsbD 1 = false ∧
    (statusWord (raiseFault c s)).getLsbD 2 = true ∧ (statusWord (raiseFault c s)).extractLsb' 8 4 = c.code

/-- R204, R23: fault entry keeps the operand registers; after an operation fault every read of a result register is a draw. -/
def Obligations.OperationFaultUnspecifiesResults : Prop :=
  ∀ (c : FaultCause) (s : State), c ≠ .illegalCmd →
    (raiseFault c s).operands = s.operands ∧ (raiseFault c s).fsm = .fault ∧ (raiseFault c s).cause = c.code ∧
    ∀ q, transact (readOf (.result q)) (raiseFault c s) = .next { raiseFault c s with
      draws := (raiseFault c s).draws + 1,
      response := some { err := false, rdata := Config.drawWord (raiseFault c s).draws } }

/-- R206, R207: from FAULT every step stays in FAULT with the first cause, unless it is a reset. -/
def Obligations.FaultIsStickyUntilReset : Prop :=
  ∀ s t : State, s.fsm = .fault → step s = .next t →
    (s.resetsNext = false → t.fsm = .fault ∧ t.cause = s.cause ∧ t.results = s.results) ∧
    (s.resetsNext = true → t.fsm = .idle ∧ t.cause = 0)

/-! ## The whole machine -/

/-- The invariant of the control state holds after reset (R29, R34; that no operation is recorded outside BUSY is the model's choice, log entry 8). -/
def Obligations.ControlStateSoundAtReset : Prop := State.reset.Inv

/-- Every step keeps: cause ≠ 0 iff FAULT, no reserved cause code (R29), an operation recorded iff BUSY (R20; log entry 8). -/
def Obligations.EveryStepKeepsControlState : Prop := ∀ s t : State, s.Inv → step s = .next t → t.Inv

/-- From a state of the invariant the machine always goes on: the model has no stop of its own there. -/
def Obligations.SoundStatesStepOn : Prop := ∀ s : State, s.Inv → s.StepsOn

/-- R20: the configuration is not state: no step changes K_BOUND. -/
def Obligations.ConfigurationIsConstant : Prop := ∀ s t : State, step s = .next t → t.kBound = s.kBound

/-- R21: only a host's write (not while BUSY) and a reset change an operand register; the core never does. -/
def Obligations.OnlyHostWritesChangeOperands : Prop :=
  ∀ s t : State, step s = .next t → s.resetsNext = false →
    t.operands = s.operands ∨
      ∃ o v, s.operandNext = some (o, v) ∧ s.fsm ≠ .busy ∧ t.operands = s.operands.set o v

/-- R33: while an operation is in flight no step but a reset changes an operand register. -/
def Obligations.OperandsStableWhileBusy : Prop :=
  ∀ s t : State, s.fsm = .busy → s.resetsNext = false → step s = .next t → t.operands = s.operands

/-- R22, R168: only a completion and a reset change a result register; a fault-free REDUCE keeps YO, and COMBINE keeps R. -/
def Obligations.OnlyCompletionChangesResults : Prop :=
  ∀ s t : State, step s = .next t → s.resetsNext = false →
    (s.completesNext = false → t.results = s.results) ∧
    (t.fsm = .done → s.op = some .reduce → t.results.yo = s.results.yo) ∧
    (t.fsm = .done → s.op = some .combine → t.results.r = s.results.r)

/-- R31: the transitions of the state machine, and no other. -/
def Obligations.StateMachineTransitions : Prop :=
  ∀ s t : State, step s = .next t →
    (s.resetsNext = true ∧ t.fsm = .idle) ∨
    (s.resetsNext = false ∧ t.fsm = s.fsm) ∨
    (s.resetsNext = false ∧ (s.fsm = .idle ∨ s.fsm = .done) ∧ t.fsm = .busy ∧
      ∃ c i, s.commandNext = some c ∧ decodeCmd c = .instr i ∧ i ≠ .nop) ∨
    (s.resetsNext = false ∧ (s.fsm = .idle ∨ s.fsm = .done) ∧ t.fsm = .fault ∧ t.cause = 1 ∧
      ∃ c w, s.commandNext = some c ∧ decodeCmd c = .reject w) ∨
    (s.completesNext = true ∧ s.fsm = .busy ∧ (t.fsm = .done ∨ (t.fsm = .fault ∧ t.cause ∈ [2, 3, 4])))

/-- R62: after a completion STATUS shows BUSY = 0 and DONE = 1 or FAULT = 1. -/
def Obligations.CompletionShowsInStatus : Prop :=
  ∀ s t : State, s.Inv → s.completesNext = true → step s = .next t →
    (statusWord t).getLsbD 0 = false ∧
      ((statusWord t).getLsbD 1 = true ∨ (statusWord t).getLsbD 2 = true)

/-- R160, R166, R167: a step whose edge ends the ack cycle of a CMD or CTRL write runs the decoded instruction on the state with the
turn taken, the port free and the write answered `err = 0`; the core's turn in BUSY runs the operation in flight, whatever
the port stands in (that last is the model's choice, log entry 23). -/
def Obligations.StepRunsTheDecodedInstruction : Prop :=
  ∀ s : State,
    (∀ (t : Transaction) (i : Instr), s.acknowledges = some t → t.we = true → t.target = some .cmd →
      (s.fsm = .idle ∨ s.fsm = .done) → decodeCmd t.wdata = .instr i →
      step s = exec i { s with
        inputs := s.inputs.tail, port := .idle, draws := s.draws + 1,
        response := some { err := false, rdata := Config.drawWord s.draws } }) ∧
    (∀ (t : Transaction) (i : Instr), s.acknowledges = some t → t.we = true → t.target = some .ctrl →
      decodeCtrl t.wdata = .instr i →
      step s = exec i { s with
        inputs := s.inputs.tail, port := .idle, draws := s.draws + 1,
        response := some { err := false, rdata := Config.drawWord s.draws } }) ∧
    (∀ o, s.completesNext = true → s.op = some o →
      step s = exec o.instr { s with inputs := s.inputs.tail, response := none })

/-- R71, R72: the handshake at one edge with `rst = 0`: `req` begins a transaction when none is in progress; one in progress waits or is
acknowledged next; in its ack cycle it takes effect, and the port is free after exactly that cycle. That a transaction in progress
goes on with the fields latched at its beginning, whatever `p` then presents, is the model's choice where a host breaks its duty
of R71 (log entry 22); so are `ack` chosen edge by edge (log entry 7) and the index of free values (log entry 24). -/
def Obligations.HandshakeAtAnEdge : Prop :=
  ∀ (s : State) (p : Pins) (ack : Bool) (rest : List Turn), p.rst = false → s.inputs = .edge p ack :: rest →
    (s.port = .idle → p.req = false → step s = .next { s with
      inputs := rest, response := none, draws := s.draws + 1 }) ∧
    (s.port = .idle → p.req = true → step s = .next { s with
      inputs := rest, response := none, draws := s.draws + 1,
      port := if ack then .acking ⟨p.we, p.addr, p.be, p.wdata⟩ else .waiting ⟨p.we, p.addr, p.be, p.wdata⟩ }) ∧
    (∀ t, s.port = .waiting t → step s = .next { s with
      inputs := rest, response := none, draws := s.draws + 1, port := if ack then .acking t else .waiting t }) ∧
    (∀ t, s.port = .acking t → step s = transact t { s with inputs := rest, port := .idle } ∧
      ∃ s', step s = .next s' ∧ s'.port = .idle ∧ s'.response.isSome = true)

/-- R70, R73: `ack` is 1 exactly in an ack cycle with `rst = 0`; then `err` and `rdata` are the response the transaction ends with. -/
def Obligations.AckPin : Prop :=
  ∀ (rst : Bool) (s : State),
    ((outputs rst s).ack = true ↔ rst = false ∧ ∃ t, s.port = .acking t) ∧
    ∀ t, s.port = .acking t →
      ∃ s' q, transact t s = .next s' ∧ s'.response = some q ∧
        outputs false s = { ack := true, err := q.err, rdata := q.rdata }

/-- R243: on the model's own schedule (log entry 5, DESIGN CHOICE), with no turn listed, an operation in flight has ended within
three steps. -/
def Obligations.OperationEndsWhenNoTurnIsListed : Prop :=
  ∀ s : State, s.Inv → s.fsm = .busy → s.inputs = [] →
    ∃ k, k ≤ 3 ∧ ∃ t : State, Sys2Proof.core.run k s = .next t ∧ t.fsm ≠ .busy

/-! ## The arithmetic (40_combine.md, 41_reduce.md) -/

/-- R104: the bound of A·X + B, the carry out of limb 4, that limb 4 takes every value, and the bound under the caller's
precondition. -/
def Obligations.CombineResultBound : Prop :=
  (∀ (a b : Limbs3) (x : Limbs2), val3 a * val2 x + val3 b ≤ 2 ^ 160 - 2 ^ 64 ∧ (combineChains a b x).2 = 0) ∧
  (∀ w : Word, ∃ (a b : Limbs3) (x : Limbs2), (combine a b x).l4 = w) ∧
  (∀ (a b : Limbs3) (x : Limbs2) (p : Nat), val3 a < p → val3 b < p → p ≤ 2 ^ 89 →
    val3 a * val2 x + val3 b < 2 ^ 153)

/-- R103: no column of the three carry chains overflows 64 bits, and every carry stays in its range. -/
def Obligations.ColumnsFit : Prop :=
  ∀ (u v w : Word) (c : Nat),
    (c ≤ 2 ^ 32 - 1 → column1 u v c ≤ 2 ^ 64 - 2 ^ 32 ∧ hi32 (column1 u v c) ≤ 2 ^ 32 - 1) ∧
    (c ≤ 2 ^ 32 - 1 → column2 w u v c ≤ 2 ^ 64 - 1 ∧ hi32 (column2 w u v c) ≤ 2 ^ 32 - 1) ∧
    (c ≤ 1 → column3 u v c ≤ 2 ^ 33 - 1 ∧ hi32 (column3 u v c) ≤ 1)

/-- R105, R102: the reference algorithm's three carry chains compute `combine` for every input. -/
def Obligations.CarryChainsComputeCombine : Prop :=
  ∀ (a b : Limbs3) (x : Limbs2), combineRef a b x = combine a b x

/-- R107: offset additivity and the identity multiplier. -/
def Obligations.CombineLaws : Prop :=
  (∀ (a b : Limbs3) (x : Limbs2), val5 (combine a ⟨0, 0, 0⟩ x) = val5 (combine a b x) - val3 b ∧
    val3 b ≤ val5 (combine a b x)) ∧
  (∀ x : Limbs2, combine ⟨1, 0, 0⟩ ⟨0, 0, 0⟩ x = ⟨x.l0, x.l1, 0, 0, 0⟩)

/-- R122: `sub5` is the exact difference with its borrow, `neg` says U < V, and every column and borrow is in range. -/
def Obligations.BorrowChainSubtracts : Prop :=
  (∀ u v : Limbs5,
    (val5 (sub5 u v).1 : Int) = (val5 u : Int) - (val5 v : Int) + (if (sub5 u v).2 then 2 ^ 160 else 0) ∧
    ((sub5 u v).2 = true ↔ val5 u < val5 v)) ∧
  (∀ (b : Int) (u v : Word), b = 0 ∨ b = -1 →
    -(2 ^ 32) ≤ borrowColumn b u v ∧ borrowColumn b u v ≤ 2 ^ 32 - 1 ∧
    (asr32 (borrowColumn b u v) = 0 ∨ asr32 (borrowColumn b u v) = -1))

/-- R123: phase 1, given trials enough, returns limbs_5(Y mod P) after exactly floor(Y / P) commits. -/
def Obligations.PhaseOneReducesModP : Prop :=
  ∀ (fuel : Nat) (y : Limbs5) (p : Limbs3), val3 p ≠ 0 → val5 y / val3 p < fuel →
    phase1 fuel y p = some (limbs5 (val5 y % val3 p), val5 y / val3 p)

/-- R124: phase 2, given trials enough, returns limbs_5(Z mod m) after exactly floor(Z / m) commits. -/
def Obligations.PhaseTwoReducesModM : Prop :=
  ∀ (fuel : Nat) (z : Limbs5) (m : Word), m.toNat ≠ 0 → val5 z / m.toNat < fuel →
    phase2 fuel z m = some (limbs5 (val5 z % m.toNat), val5 z / m.toNat)

/-- R124, R121: the reference REDUCE, given trials enough, answers what `reduce` answers, whenever no check applies. -/
def Obligations.ReferenceReduceAgrees : Prop :=
  ∀ (kb : Option IterBound) (p : Limbs3) (m : Word) (y : Limbs5) (fuel1 fuel2 : Nat),
    val3 p ≠ 0 → m.toNat ≠ 0 → (∀ b, kb = some b → val5 y < b.k * val3 p) →
    val5 y / val3 p < fuel1 → val5 y % val3 p / m.toNat < fuel2 →
    reduceRef fuel1 fuel2 p m y = some (reduce kb p m y)

/-- R121: what `reduce` answers: the residue, below m, exactly when no check applies. -/
def Obligations.ReduceAnswersTheResidue : Prop :=
  ∀ (kb : Option IterBound) (p : Limbs3) (m : Word) (y : Limbs5) (r : Word),
    reduce kb p m y = .ok r ↔
      val3 p ≠ 0 ∧ m.toNat ≠ 0 ∧ (∀ b, kb = some b → val5 y < b.k * val3 p) ∧
        r.toNat = val5 y % val3 p % m.toNat ∧ r.toNat < m.toNat

/-- R126: the final assertion never fires, for any operands. -/
def Obligations.HighLimbAssertionNeverFires : Prop :=
  ∀ (kb : Option IterBound) (p : Limbs3) (m : Word) (y : Limbs5), reduce kb p m y ≠ .fault .assertHighLimbs

/-- R125: after phase 1, given trials enough, the value Z is Y mod P, below P, which is below 2^96: its limbs 3 and 4 are zero. -/
def Obligations.PhaseOneResidueFitsThreeLimbs : Prop :=
  ∀ (fuel : Nat) (y : Limbs5) (p : Limbs3), val3 p ≠ 0 → val5 y / val3 p < fuel →
    ∃ z n, phase1 fuel y p = some (z, n) ∧ val5 z = val5 y % val3 p ∧ val5 z < val3 p ∧ val3 p < 2 ^ 96 ∧
      z.l3 = 0 ∧ z.l4 = 0

/-- R120, R133: when m is a power of two the residue is (Y mod P) & (m − 1). -/
def Obligations.PowerOfTwoModulusIsAMask : Prop :=
  ∀ (kb : Option IterBound) (p : Limbs3) (m : Word) (y : Limbs5) (r : Word) (j : Nat),
    m.toNat = 2 ^ j → reduce kb p m y = .ok r → r.toNat = (val5 y % val3 p) &&& (m.toNat - 1)

/-! ## Host sequences (30_encoding.md) -/

/-- R85: two operand writes to different registers end in the same state in either order. -/
def Obligations.OperandLoadOrderIsFree : Prop :=
  ∀ (o o' : OperandReg) (v w : Word) (s : State), o ≠ o' →
    runStmts [.wr (.operand o) v, .wr (.operand o') w] s = runStmts [.wr (.operand o') w, .wr (.operand o) v] s

/-- R85, R53: the `ld` pseudo-instructions, not while BUSY, leave the quantity at the immediate's value and every other register alone. -/
def Obligations.LoadsSetTheQuantity : Prop :=
  ∀ s : State, s.fsm ≠ .busy →
    (∀ v, ∃ t, runStmts (Pseudo.ldA v).expand s = .next t ∧ t.valA = v.toNat ∧
      t = { s with operands := { s.operands with a := t.operands.a }, draws := t.draws, response := t.response }) ∧
    (∀ v, ∃ t, runStmts (Pseudo.ldB v).expand s = .next t ∧ t.valB = v.toNat ∧
      t = { s with operands := { s.operands with b := t.operands.b }, draws := t.draws, response := t.response }) ∧
    (∀ v, ∃ t, runStmts (Pseudo.ldX v).expand s = .next t ∧ t.valX = v.toNat ∧
      t = { s with operands := { s.operands with x := t.operands.x }, draws := t.draws, response := t.response }) ∧
    (∀ v, ∃ t, runStmts (Pseudo.ldP v).expand s = .next t ∧ t.valP = v.toNat ∧
      t = { s with operands := { s.operands with p := t.operands.p }, draws := t.draws, response := t.response }) ∧
    (∀ v, ∃ t, runStmts (Pseudo.ldM v).expand s = .next t ∧ t.valM = v.toNat ∧
      t = { s with operands := { s.operands with m := t.operands.m }, draws := t.draws, response := t.response }) ∧
    (∀ v, ∃ t, runStmts (Pseudo.ldYi v).expand s = .next t ∧ t.valYin = v.toNat ∧
      t = { s with operands := { s.operands with yi := t.operands.yi }, draws := t.draws, response := t.response })

/-- R84, R85: the `wait` loop: its read of STATUS changes nothing but the answer, and the host reads again exactly while BUSY. -/
def Obligations.WaitPollsBusy : Prop :=
  ∀ s : State,
    hostStep Pseudo.wait.expand 1 s =
      .next ({ s with response := some { err := false, rdata := statusWord s } }, if s.fsm = .busy then 0 else 2)
end

