-- ==== Sys2Proof/Laws/Operands.lean ====
section
/-!
SUPPORT. What the operand forms do: registers by name, limb sequences as integers, and the register map.
-/
namespace Sys2Proof.Machine

/-! Registers by name (R24: no two alias). -/

@[simp] theorem get_set_same (q : OperandRegs) (o : OperandReg) (v : Word) : (q.set o v).get o = v := by
  cases o <;> rfl

theorem get_set_other (q : OperandRegs) {o o' : OperandReg} (v : Word) (h : o' ≠ o) :
    (q.set o v).get o' = q.get o' := by
  cases o <;> cases o' <;> first | rfl | exact absurd rfl h

@[simp] theorem set_set_same (q : OperandRegs) (o : OperandReg) (v w : Word) :
    (q.set o v).set o w = q.set o w := by
  cases o <;> rfl

theorem set_set_comm (q : OperandRegs) {o o' : OperandReg} (v w : Word) (h : o ≠ o') :
    (q.set o v).set o' w = (q.set o' w).set o v := by
  cases o <;> cases o' <;> first | rfl | exact absurd rfl h

/-- Two operand files that read alike by every name are equal: R21 lists every register. -/
theorem operands_ext {p q : OperandRegs} (h : ∀ o, p.get o = q.get o) : p = q := by
  obtain ⟨⟨pa0, pa1, pa2⟩, ⟨pb0, pb1, pb2⟩, ⟨px0, px1⟩, ⟨pp0, pp1, pp2⟩, pm, ⟨py0, py1, py2, py3, py4⟩⟩ := p
  obtain ⟨⟨qa0, qa1, qa2⟩, ⟨qb0, qb1, qb2⟩, ⟨qx0, qx1⟩, ⟨qp0, qp1, qp2⟩, qm, ⟨qy0, qy1, qy2, qy3, qy4⟩⟩ := q
  have := h .a0; have := h .a1; have := h .a2; have := h .b0; have := h .b1; have := h .b2
  have := h .x0; have := h .x1; have := h .p0; have := h .p1; have := h .p2; have := h .m
  have := h .yi0; have := h .yi1; have := h .yi2; have := h .yi3; have := h .yi4
  simp_all [OperandRegs.get]

/-! The register map (R51). -/

@[simp] theorem regAt_offset (n : RegName) : regAt n.offset = some n := by
  cases n with
  | cmd => decide
  | ctrl => decide
  | status => decide
  | operand o => cases o <;> decide
  | result q => cases q <;> decide

theorem offset_of_regAt {a : BitVec 8} {n : RegName} (h : regAt a = some n) : a = n.offset := by
  have := List.find?_some h
  simpa using (beq_iff_eq.mp this).symm

theorem regAt_eq_some {a : BitVec 8} {n : RegName} : regAt a = some n ↔ a = n.offset :=
  ⟨offset_of_regAt, fun h => h ▸ regAt_offset n⟩

/-- Every mapped offset is word aligned. -/
theorem offset_aligned (n : RegName) : n.offset.extractLsb' 0 2 = 0 := by
  cases n with
  | cmd => decide
  | ctrl => decide
  | status => decide
  | operand o => cases o <;> decide
  | result q => cases q <;> decide

/-- A transaction is legal (R55) exactly when it carries all four byte lanes at a register's offset. -/
theorem target_eq_some {t : Transaction} {n : RegName} :
    t.target = some n ↔ t.addr = n.offset ∧ t.be = 0b1111 := by
  unfold Transaction.target
  constructor
  · intro h
    split at h
    · rename_i hc
      exact ⟨offset_of_regAt h, hc.2⟩
    · cases h
  · rintro ⟨ha, hb⟩
    have : t.addr.extractLsb' 0 2 = 0 := ha ▸ offset_aligned n
    rw [if_pos ⟨this, hb⟩, ha, regAt_offset]

@[simp] theorem writeOf_target (n : RegName) (d : Word) : (writeOf n d).target = some n :=
  target_eq_some.mpr ⟨rfl, rfl⟩

@[simp] theorem readOf_target (n : RegName) : (readOf n).target = some n := target_eq_some.mpr ⟨rfl, rfl⟩

@[simp] theorem writeOf_we (n : RegName) (d : Word) : (writeOf n d).we = true := rfl
@[simp] theorem writeOf_wdata (n : RegName) (d : Word) : (writeOf n d).wdata = d := rfl
@[simp] theorem readOf_we (n : RegName) : (readOf n).we = false := rfl

/-! Limb sequences as integers (R11). -/

theorem val2_lt (l : Limbs2) : val2 l < 2 ^ 64 := by
  have := l.l0.isLt; have := l.l1.isLt
  unfold val2; omega

theorem val3_lt (l : Limbs3) : val3 l < 2 ^ 96 := by
  have := l.l0.isLt; have := l.l1.isLt; have := l.l2.isLt
  unfold val3; omega

theorem val5_lt (l : Limbs5) : val5 l < 2 ^ 160 := by
  have := l.l0.isLt; have := l.l1.isLt; have := l.l2.isLt; have := l.l3.isLt; have := l.l4.isLt
  unfold val5; omega

@[simp] theorem lo32_toNat (t : Nat) : (lo32 t).toNat = t % 2 ^ 32 := by simp [lo32]

/-- A column splits into its low word and its carry. -/
theorem lo32_hi32 (t : Nat) : (lo32 t).toNat + hi32 t * 2 ^ 32 = t := by
  rw [lo32_toNat]; unfold hi32; omega

/-- `limbs_5` represents every 160-bit value (R11). -/
theorem val5_limbs5 {v : Nat} (h : v < 2 ^ 160) : val5 (limbs5 v) = v := by
  simp only [val5, limbs5, lo32_toNat]
  omega

/-- A limb sequence is the only one with its value (R11). -/
theorem val5_inj {k l : Limbs5} (h : val5 k = val5 l) : k = l := by
  obtain ⟨k0, k1, k2, k3, k4⟩ := k
  obtain ⟨l0, l1, l2, l3, l4⟩ := l
  have := k0.isLt; have := k1.isLt; have := k2.isLt; have := k3.isLt; have := k4.isLt
  have := l0.isLt; have := l1.isLt; have := l2.isLt; have := l3.isLt; have := l4.isLt
  simp only [val5] at h
  simp only [Limbs5.mk.injEq]
  refine ⟨?_, ?_, ?_, ?_, ?_⟩ <;> apply BitVec.eq_of_toNat_eq <;> omega

theorem limbs5_val5 (l : Limbs5) : limbs5 (val5 l) = l := val5_inj (val5_limbs5 (val5_lt l))

@[simp] theorem val5_zext3 (l : Limbs3) : val5 (zext3 l) = val3 l := by simp [val5, zext3, val3]
@[simp] theorem val5_zext1 (w : Word) : val5 (zext1 w) = w.toNat := by simp [val5, zext1]

end Sys2Proof.Machine
end

