-- ==== Sys2Proof/Laws/Arithmetic.lean ====
section
/-!
SUPPORT. What the arithmetic answers: one lemma per case of `reduce` (R121), and the split of a borrow column (R122).
-/
namespace Sys2Proof.Machine

/-- A·X + B fits five limbs (R82, R104). -/
theorem combine_fits (a b : Limbs3) (x : Limbs2) : val3 a * val2 x + val3 b < 2 ^ 160 := by
  have ha : val3 a ≤ 2 ^ 96 - 1 := by have := val3_lt a; omega
  have hx : val2 x ≤ 2 ^ 64 - 1 := by have := val2_lt x; omega
  have hb := val3_lt b
  have := Nat.mul_le_mul ha hx
  omega

/-- `combine` represents A·X + B exactly (R101). -/
theorem val5_combine (a b : Limbs3) (x : Limbs2) : val5 (combine a b x) = val3 a * val2 x + val3 b :=
  val5_limbs5 (combine_fits a b x)

/-- R129's check as arithmetic. -/
theorem exceedsBound_iff (kb : Option IterBound) (p y : Nat) :
    exceedsBound kb p y = true ↔ ∃ b, kb = some b ∧ b.k * p ≤ y := by
  cases kb <;> simp [exceedsBound]

/-- A value below P passes the K_BOUND check, whatever k is. -/
theorem exceedsBound_of_lt (kb : Option IterBound) {p y : Nat} (h : y < p) : exceedsBound kb p y = false := by
  cases kb with
  | none => rfl
  | some b =>
    have := Nat.mul_le_mul_right p b.pos
    simp only [exceedsBound, decide_eq_false_iff_not]
    omega

/-- A one-limb value sets no higher limb. -/
theorem highLimbsSet_limbs5 {v : Nat} (h : v < 2 ^ 32) : highLimbsSet (limbs5 v) = false := by
  have h1 : v / 2 ^ 32 = 0 := by omega
  have h2 : v / 2 ^ 64 = 0 := by omega
  have h3 : v / 2 ^ 96 = 0 := by omega
  have h4 : v / 2 ^ 128 = 0 := by omega
  simp only [highLimbsSet, limbs5, lo32, h1, h2, h3, h4]
  decide

theorem reduce_pZero {kb : Option IterBound} {p : Limbs3} {m : Word} {y : Limbs5} (h : val3 p = 0) :
    reduce kb p m y = .fault .pZero := by
  simp [reduce, h]

theorem reduce_mZero {kb : Option IterBound} {p : Limbs3} {m : Word} {y : Limbs5} (hp : val3 p ≠ 0)
    (h : m.toNat = 0) : reduce kb p m y = .fault .mZero := by
  simp only [reduce, if_neg hp, if_pos h]

theorem reduce_kBound {kb : Option IterBound} {p : Limbs3} {m : Word} {y : Limbs5} (hp : val3 p ≠ 0)
    (hm : m.toNat ≠ 0) (h : exceedsBound kb (val3 p) (val5 y) = true) : reduce kb p m y = .fault .kBound := by
  simp only [reduce, if_neg hp, if_neg hm, if_pos h]

/-- Past the three checks `reduce` answers the residue: the assertion never fires. -/
theorem reduce_ok {kb : Option IterBound} {p : Limbs3} {m : Word} {y : Limbs5} (hp : val3 p ≠ 0)
    (hm : m.toNat ≠ 0) (h : exceedsBound kb (val3 p) (val5 y) = false) :
    reduce kb p m y = .ok (lo32 (val5 y % val3 p % m.toNat)) := by
  have hlt : val5 y % val3 p % m.toNat < 2 ^ 32 :=
    lt_trans (Nat.mod_lt _ (Nat.pos_of_ne_zero hm)) m.isLt
  have hh : ¬ (exceedsBound kb (val3 p) (val5 y) = true) := by simp [h]
  have ha : ¬ (highLimbsSet (limbs5 (val5 y % val3 p % m.toNat)) = true) := by
    simp [highLimbsSet_limbs5 hlt]
  simp only [reduce, if_neg hp, if_neg hm, if_neg hh, if_neg ha]
  rfl

/-- A borrow column splits into its low word and its borrow (R122). -/
theorem loColumn_asr32 (t : Int) : ((loColumn t).toNat : Int) + asr32 t * 2 ^ 32 = t := by
  have h1 : ((loColumn t).toNat : Int) = t % 2 ^ 32 := by
    simp [loColumn, BitVec.toNat_ofInt]
    omega
  have h2 : asr32 t = t / 2 ^ 32 := by
    unfold asr32
    rw [Int.fdiv_eq_ediv_of_nonneg _ (by norm_num)]
  rw [h1, h2]
  have := Int.emod_add_mul_ediv t (2 ^ 32)
  omega

end Sys2Proof.Machine
end

