-- ==== Sys2Proof/Laws/State.lean ====
section
/-!
SUPPORT. One lemma per field per named state operation, true by rfl, so that no later proof unfolds a record update.
-/
namespace Sys2Proof.Machine

@[simp] theorem ackDraw_eq (s : State) : ackDraw s = respondDraw false s := rfl
@[simp] theorem ackWrite_eq (s : State) : ackWrite s = respondDraw false s := rfl
@[simp] theorem accessError_eq (s : State) : accessError s = respondDraw true s := rfl

/-! An answer with a draw. -/

@[simp] theorem respondDraw_operands (err : Bool) (s : State) : (respondDraw err s).operands = s.operands := rfl
@[simp] theorem respondDraw_results (err : Bool) (s : State) : (respondDraw err s).results = s.results := rfl
@[simp] theorem respondDraw_fsm (err : Bool) (s : State) : (respondDraw err s).fsm = s.fsm := rfl
@[simp] theorem respondDraw_cause (err : Bool) (s : State) : (respondDraw err s).cause = s.cause := rfl
@[simp] theorem respondDraw_op (err : Bool) (s : State) : (respondDraw err s).op = s.op := rfl
@[simp] theorem respondDraw_kBound (err : Bool) (s : State) : (respondDraw err s).kBound = s.kBound := rfl
@[simp] theorem respondDraw_draws (err : Bool) (s : State) : (respondDraw err s).draws = s.draws + 1 := rfl
@[simp] theorem respondDraw_port (err : Bool) (s : State) : (respondDraw err s).port = s.port := rfl
@[simp] theorem respondDraw_response (err : Bool) (s : State) : (respondDraw err s).response = some { err := err, rdata := Config.drawWord s.draws } := rfl
@[simp] theorem respondDraw_inputs (err : Bool) (s : State) : (respondDraw err s).inputs = s.inputs := rfl

/-! A completed read. -/

@[simp] theorem ackRead_operands (v : Word) (s : State) : (ackRead v s).operands = s.operands := rfl
@[simp] theorem ackRead_results (v : Word) (s : State) : (ackRead v s).results = s.results := rfl
@[simp] theorem ackRead_fsm (v : Word) (s : State) : (ackRead v s).fsm = s.fsm := rfl
@[simp] theorem ackRead_cause (v : Word) (s : State) : (ackRead v s).cause = s.cause := rfl
@[simp] theorem ackRead_op (v : Word) (s : State) : (ackRead v s).op = s.op := rfl
@[simp] theorem ackRead_kBound (v : Word) (s : State) : (ackRead v s).kBound = s.kBound := rfl
@[simp] theorem ackRead_draws (v : Word) (s : State) : (ackRead v s).draws = s.draws := rfl
@[simp] theorem ackRead_port (v : Word) (s : State) : (ackRead v s).port = s.port := rfl
@[simp] theorem ackRead_response (v : Word) (s : State) : (ackRead v s).response = some { err := false, rdata := v } := rfl
@[simp] theorem ackRead_inputs (v : Word) (s : State) : (ackRead v s).inputs = s.inputs := rfl

/-! An operand register written. -/

@[simp] theorem setOperand_operands (o : OperandReg) (v : Word) (s : State) : (setOperand o v s).operands = s.operands.set o v := rfl
@[simp] theorem setOperand_results (o : OperandReg) (v : Word) (s : State) : (setOperand o v s).results = s.results := rfl
@[simp] theorem setOperand_fsm (o : OperandReg) (v : Word) (s : State) : (setOperand o v s).fsm = s.fsm := rfl
@[simp] theorem setOperand_cause (o : OperandReg) (v : Word) (s : State) : (setOperand o v s).cause = s.cause := rfl
@[simp] theorem setOperand_op (o : OperandReg) (v : Word) (s : State) : (setOperand o v s).op = s.op := rfl
@[simp] theorem setOperand_kBound (o : OperandReg) (v : Word) (s : State) : (setOperand o v s).kBound = s.kBound := rfl
@[simp] theorem setOperand_draws (o : OperandReg) (v : Word) (s : State) : (setOperand o v s).draws = s.draws := rfl
@[simp] theorem setOperand_port (o : OperandReg) (v : Word) (s : State) : (setOperand o v s).port = s.port := rfl
@[simp] theorem setOperand_response (o : OperandReg) (v : Word) (s : State) : (setOperand o v s).response = s.response := rfl
@[simp] theorem setOperand_inputs (o : OperandReg) (v : Word) (s : State) : (setOperand o v s).inputs = s.inputs := rfl

/-! Reset. -/

@[simp] theorem applyReset_operands (s : State) : (applyReset s).operands = OperandRegs.reset := rfl
@[simp] theorem applyReset_results (s : State) : (applyReset s).results = ResultRegs.reset := rfl
@[simp] theorem applyReset_fsm (s : State) : (applyReset s).fsm = .idle := rfl
@[simp] theorem applyReset_cause (s : State) : (applyReset s).cause = 0 := rfl
@[simp] theorem applyReset_op (s : State) : (applyReset s).op = none := rfl
@[simp] theorem applyReset_kBound (s : State) : (applyReset s).kBound = s.kBound := rfl
@[simp] theorem applyReset_draws (s : State) : (applyReset s).draws = s.draws := rfl
@[simp] theorem applyReset_port (s : State) : (applyReset s).port = s.port := rfl
@[simp] theorem applyReset_response (s : State) : (applyReset s).response = s.response := rfl
@[simp] theorem applyReset_inputs (s : State) : (applyReset s).inputs = s.inputs := rfl

/-! Reset by the pin. -/

@[simp] theorem quietEdge_operands (p : Port) (s : State) : (quietEdge p s).operands = s.operands := rfl
@[simp] theorem quietEdge_results (p : Port) (s : State) : (quietEdge p s).results = s.results := rfl
@[simp] theorem quietEdge_fsm (p : Port) (s : State) : (quietEdge p s).fsm = s.fsm := rfl
@[simp] theorem quietEdge_cause (p : Port) (s : State) : (quietEdge p s).cause = s.cause := rfl
@[simp] theorem quietEdge_op (p : Port) (s : State) : (quietEdge p s).op = s.op := rfl
@[simp] theorem quietEdge_kBound (p : Port) (s : State) : (quietEdge p s).kBound = s.kBound := rfl
@[simp] theorem quietEdge_draws (p : Port) (s : State) : (quietEdge p s).draws = s.draws + 1 := rfl
@[simp] theorem quietEdge_port (p : Port) (s : State) : (quietEdge p s).port = p := rfl
@[simp] theorem quietEdge_response (p : Port) (s : State) : (quietEdge p s).response = none := rfl
@[simp] theorem quietEdge_inputs (p : Port) (s : State) : (quietEdge p s).inputs = s.inputs := rfl

@[simp] theorem hardwareReset_operands (s : State) : (hardwareReset s).operands = OperandRegs.reset := rfl
@[simp] theorem hardwareReset_results (s : State) : (hardwareReset s).results = ResultRegs.reset := rfl
@[simp] theorem hardwareReset_fsm (s : State) : (hardwareReset s).fsm = .idle := rfl
@[simp] theorem hardwareReset_cause (s : State) : (hardwareReset s).cause = 0 := rfl
@[simp] theorem hardwareReset_op (s : State) : (hardwareReset s).op = none := rfl
@[simp] theorem hardwareReset_kBound (s : State) : (hardwareReset s).kBound = s.kBound := rfl
@[simp] theorem hardwareReset_draws (s : State) : (hardwareReset s).draws = s.draws + 1 := rfl
@[simp] theorem hardwareReset_port (s : State) : (hardwareReset s).port = .idle := rfl
@[simp] theorem hardwareReset_response (s : State) : (hardwareReset s).response = none := rfl
@[simp] theorem hardwareReset_inputs (s : State) : (hardwareReset s).inputs = s.inputs := rfl

/-! Acceptance. -/

@[simp] theorem accept_operands (o : Op) (s : State) : (accept o s).operands = s.operands := rfl
@[simp] theorem accept_results (o : Op) (s : State) : (accept o s).results = s.results := rfl
@[simp] theorem accept_fsm (o : Op) (s : State) : (accept o s).fsm = .busy := rfl
@[simp] theorem accept_cause (o : Op) (s : State) : (accept o s).cause = s.cause := rfl
@[simp] theorem accept_op (o : Op) (s : State) : (accept o s).op = some o := rfl
@[simp] theorem accept_kBound (o : Op) (s : State) : (accept o s).kBound = s.kBound := rfl
@[simp] theorem accept_draws (o : Op) (s : State) : (accept o s).draws = s.draws := rfl
@[simp] theorem accept_port (o : Op) (s : State) : (accept o s).port = s.port := rfl
@[simp] theorem accept_response (o : Op) (s : State) : (accept o s).response = s.response := rfl
@[simp] theorem accept_inputs (o : Op) (s : State) : (accept o s).inputs = s.inputs := rfl

/-! The end of a fault-free completion. -/

@[simp] theorem finish_operands (s : State) : (finish s).operands = s.operands := rfl
@[simp] theorem finish_results (s : State) : (finish s).results = s.results := rfl
@[simp] theorem finish_fsm (s : State) : (finish s).fsm = .done := rfl
@[simp] theorem finish_cause (s : State) : (finish s).cause = s.cause := rfl
@[simp] theorem finish_op (s : State) : (finish s).op = none := rfl
@[simp] theorem finish_kBound (s : State) : (finish s).kBound = s.kBound := rfl
@[simp] theorem finish_draws (s : State) : (finish s).draws = s.draws := rfl
@[simp] theorem finish_port (s : State) : (finish s).port = s.port := rfl
@[simp] theorem finish_response (s : State) : (finish s).response = s.response := rfl
@[simp] theorem finish_inputs (s : State) : (finish s).inputs = s.inputs := rfl

/-! YO written. -/

@[simp] theorem writeYo_operands (y : Limbs5) (s : State) : (writeYo y s).operands = s.operands := rfl
@[simp] theorem writeYo_results (y : Limbs5) (s : State) : (writeYo y s).results = { s.results with yo := y } := rfl
@[simp] theorem writeYo_fsm (y : Limbs5) (s : State) : (writeYo y s).fsm = s.fsm := rfl
@[simp] theorem writeYo_cause (y : Limbs5) (s : State) : (writeYo y s).cause = s.cause := rfl
@[simp] theorem writeYo_op (y : Limbs5) (s : State) : (writeYo y s).op = s.op := rfl
@[simp] theorem writeYo_kBound (y : Limbs5) (s : State) : (writeYo y s).kBound = s.kBound := rfl
@[simp] theorem writeYo_draws (y : Limbs5) (s : State) : (writeYo y s).draws = s.draws := rfl
@[simp] theorem writeYo_port (y : Limbs5) (s : State) : (writeYo y s).port = s.port := rfl
@[simp] theorem writeYo_response (y : Limbs5) (s : State) : (writeYo y s).response = s.response := rfl
@[simp] theorem writeYo_inputs (y : Limbs5) (s : State) : (writeYo y s).inputs = s.inputs := rfl

/-! R written. -/

@[simp] theorem writeR_operands (r : Word) (s : State) : (writeR r s).operands = s.operands := rfl
@[simp] theorem writeR_results (r : Word) (s : State) : (writeR r s).results = { s.results with r := r } := rfl
@[simp] theorem writeR_fsm (r : Word) (s : State) : (writeR r s).fsm = s.fsm := rfl
@[simp] theorem writeR_cause (r : Word) (s : State) : (writeR r s).cause = s.cause := rfl
@[simp] theorem writeR_op (r : Word) (s : State) : (writeR r s).op = s.op := rfl
@[simp] theorem writeR_kBound (r : Word) (s : State) : (writeR r s).kBound = s.kBound := rfl
@[simp] theorem writeR_draws (r : Word) (s : State) : (writeR r s).draws = s.draws := rfl
@[simp] theorem writeR_port (r : Word) (s : State) : (writeR r s).port = s.port := rfl
@[simp] theorem writeR_response (r : Word) (s : State) : (writeR r s).response = s.response := rfl
@[simp] theorem writeR_inputs (r : Word) (s : State) : (writeR r s).inputs = s.inputs := rfl

/-! The results made unspecified. -/

@[simp] theorem scrambleResults_operands (s : State) : (scrambleResults s).operands = s.operands := rfl
@[simp] theorem scrambleResults_fsm (s : State) : (scrambleResults s).fsm = s.fsm := rfl
@[simp] theorem scrambleResults_cause (s : State) : (scrambleResults s).cause = s.cause := rfl
@[simp] theorem scrambleResults_op (s : State) : (scrambleResults s).op = s.op := rfl
@[simp] theorem scrambleResults_kBound (s : State) : (scrambleResults s).kBound = s.kBound := rfl
@[simp] theorem scrambleResults_draws (s : State) : (scrambleResults s).draws = s.draws + 6 := rfl
@[simp] theorem scrambleResults_port (s : State) : (scrambleResults s).port = s.port := rfl
@[simp] theorem scrambleResults_response (s : State) : (scrambleResults s).response = s.response := rfl
@[simp] theorem scrambleResults_inputs (s : State) : (scrambleResults s).inputs = s.inputs := rfl

/-! Fault entry. -/

@[simp] theorem raiseFault_operands (c : FaultCause) (s : State) : (raiseFault c s).operands = s.operands := by
  cases c <;> rfl
@[simp] theorem raiseFault_fsm (c : FaultCause) (s : State) : (raiseFault c s).fsm = .fault := by
  cases c <;> rfl
@[simp] theorem raiseFault_cause (c : FaultCause) (s : State) : (raiseFault c s).cause = c.code := by
  cases c <;> rfl
@[simp] theorem raiseFault_op (c : FaultCause) (s : State) : (raiseFault c s).op = none := by
  cases c <;> rfl
@[simp] theorem raiseFault_kBound (c : FaultCause) (s : State) : (raiseFault c s).kBound = s.kBound := by
  cases c <;> rfl
@[simp] theorem raiseFault_port (c : FaultCause) (s : State) : (raiseFault c s).port = s.port := by
  cases c <;> rfl
@[simp] theorem raiseFault_response (c : FaultCause) (s : State) : (raiseFault c s).response = s.response := by
  cases c <;> rfl
@[simp] theorem raiseFault_inputs (c : FaultCause) (s : State) : (raiseFault c s).inputs = s.inputs := by
  cases c <;> rfl
@[simp] theorem raiseFault_illegalCmd_results (s : State) : (raiseFault .illegalCmd s).results = s.results := rfl
@[simp] theorem raiseFault_illegalCmd_draws (s : State) : (raiseFault .illegalCmd s).draws = s.draws := rfl

/-! Readiness reads fsm only. -/

theorem ready_iff (s : State) : s.ready = true ↔ s.fsm = .idle ∨ s.fsm = .done := by
  simp [State.ready]

theorem not_ready_iff (s : State) : s.ready = false ↔ s.fsm = .busy ∨ s.fsm = .fault := by
  unfold State.ready
  cases s.fsm <;> simp

@[simp] theorem respondDraw_ready (err : Bool) (s : State) : (respondDraw err s).ready = s.ready := rfl

end Sys2Proof.Machine
end

