-- ==== Sys2Proof/Laws/Ops.lean ====
section
/-!
SUPPORT. What the shared operations and the meanings can do, said once: one lemma per case.
-/
namespace Sys2Proof.Machine

/-! The stages of an operation. -/

theorem operate_ready {s : State} (h : s.ready = true) (o : Op) (complete : State → State) :
    operate o complete s = .next (accept o s) := by
  rcases (ready_iff s).mp h with h | h <;> simp [operate, h]

theorem operate_inFlight {s : State} {o : Op} (h : s.fsm = .busy) (ho : s.op = some o)
    (complete : State → State) : operate o complete s = .next (complete s) := by
  simp [operate, h, ho]

/-- An operation is accepted, completes, or is refused; there is no fourth outcome. -/
theorem operate_cases (o : Op) (complete : State → State) (s : State) :
    (s.ready = true ∧ operate o complete s = .next (accept o s)) ∨
      (s.fsm = .busy ∧ s.op = some o ∧ operate o complete s = .next (complete s)) ∨
      (s.ready = false ∧ operate o complete s = .next (accessError s)) := by
  unfold operate State.ready
  cases s.fsm
  · simp
  · by_cases h : s.op = some o <;> simp [h]
  · simp
  · simp

/-! Fault entry. -/

theorem raiseFault_ofOperation {c : FaultCause} (h : c.ofOperation = true) (s : State) :
    raiseFault c s = scrambleResults { s with fsm := .fault, cause := c.code, op := none } := by
  simp [raiseFault, h]

theorem raiseFault_illegalCmd (s : State) :
    raiseFault .illegalCmd s = { s with fsm := .fault, cause := 1, op := none } := rfl

@[simp] theorem faultCode_ne_zero (c : FaultCause) : c.code ≠ 0#4 := by cases c <;> decide

theorem faultCode_le (c : FaultCause) : c.code.toNat ≤ 5 := by cases c <;> decide

/-! Completions. -/

/-- A completion ends in DONE with the cause kept, or in FAULT by fault entry; it leaves the operands alone. -/
def EndsOperation (s t : State) : Prop :=
  (t.fsm = .done ∧ t.cause = s.cause ∧ t.op = none ∧ t.operands = s.operands) ∨
    (∃ c : FaultCause, c.ofOperation = true ∧ t = raiseFault c s)

theorem reduce_fault_ofOperation {kb : Option IterBound} {p : Limbs3} {m : Word} {y : Limbs5} {c : FaultCause}
    (h : reduce kb p m y = .fault c) : c.ofOperation = true := by
  unfold reduce at h
  by_cases hp : val3 p = 0
  · simp only [if_pos hp, Reduction.fault.injEq] at h; subst h; rfl
  · by_cases hm : m.toNat = 0
    · simp only [if_neg hp, if_pos hm, Reduction.fault.injEq] at h; subst h; rfl
    · by_cases hk : exceedsBound kb (val3 p) (val5 y) = true
      · simp only [if_neg hp, if_neg hm, if_pos hk, Reduction.fault.injEq] at h; subst h; rfl
      · rw [Bool.not_eq_true] at hk
        have := reduce_ok hp hm hk
        simp only [reduce] at this
        rw [this] at h
        cases h

theorem completeCombine_ends (s : State) : EndsOperation s (completeCombine s) := .inl ⟨rfl, rfl, rfl, rfl⟩

theorem completeReduce_ends (s : State) : EndsOperation s (completeReduce s) := by
  unfold completeReduce
  split
  · exact .inl ⟨rfl, rfl, rfl, rfl⟩
  · rename_i c h
    exact .inr ⟨c, reduce_fault_ofOperation h, rfl⟩

theorem completeHash_ends (s : State) : EndsOperation s (completeHash s) := by
  unfold completeHash
  simp only
  split
  · exact .inl ⟨rfl, rfl, rfl, rfl⟩
  · rename_i c h
    exact .inr ⟨c, reduce_fault_ofOperation h, rfl⟩

/-! The meanings. -/

/-- The operation an instruction asks for, if it asks for one. -/
def operationOf : Instr → Option Op
  | .nop => none
  | .combine => some .combine
  | .reduce => some .reduce
  | .hash => some .hash
  | .sreset _ => none

/-- What an instruction does in IDLE or DONE: NOP nothing, an operation is accepted, SRESET resets or skips. -/
theorem exec_ready {s : State} (h : s.ready = true) (i : Instr) :
    exec i s = .next s ∨ (∃ o, operationOf i = some o ∧ exec i s = .next (accept o s)) ∨
      (∃ d, i = .sreset d ∧ ctrlSreset d = true ∧ exec i s = .next (applyReset s)) := by
  cases i with
  | nop => exact .inl (by simp [exec, execNop, h])
  | combine => exact .inr (.inl ⟨_, rfl, operate_ready h _ _⟩)
  | reduce => exact .inr (.inl ⟨_, rfl, operate_ready h _ _⟩)
  | hash => exact .inr (.inl ⟨_, rfl, operate_ready h _ _⟩)
  | sreset d =>
    by_cases hd : ctrlSreset d = true
    · exact .inr (.inr ⟨d, rfl, hd, by simp [exec, execSreset, hd]⟩)
    · exact .inl (by simp [exec, execSreset, hd])

/-- What the operation in flight does at its completion. -/
theorem exec_inFlight {s : State} {o : Op} (h : s.fsm = .busy) (ho : s.op = some o) :
    ∃ t, exec o.instr s = .next t ∧ EndsOperation s t := by
  cases o with
  | combine => exact ⟨_, operate_inFlight h ho _, completeCombine_ends s⟩
  | reduce => exact ⟨_, operate_inFlight h ho _, completeReduce_ends s⟩
  | hash => exact ⟨_, operate_inFlight h ho _, completeHash_ends s⟩

end Sys2Proof.Machine
end

