-- ==== Sys2Proof/Laws/Bus.lean ====
section
/-!
SUPPORT. What a transaction and a step can do, each said once: inversion lemmas that later proofs cite instead of unfolding the
port.
-/
namespace Sys2Proof.Machine

/-! Transactions. -/

theorem transact_illegal {t : Transaction} (h : t.target = none) (s : State) :
    transact t s = .next (accessError s) := by
  simp only [transact, h]

theorem transact_write {t : Transaction} {n : RegName} (h : t.target = some n) (hw : t.we = true) (s : State) :
    transact t s = writeReg n t.wdata s := by
  simp only [transact, h, hw, if_true]

theorem transact_read {t : Transaction} {n : RegName} (h : t.target = some n) (hw : t.we = false) (s : State) :
    transact t s = .next (readReg n s) := by
  simp [transact, h, hw]

/-- Nothing changed but the response and the draw counter. -/
def Answered (s s' : State) : Prop := ∃ q d, s' = { s with response := some q, draws := d }

theorem answered_respondDraw (err : Bool) (s : State) : Answered s (respondDraw err s) := ⟨_, _, rfl⟩

theorem answered_ackRead (v : Word) (s : State) : Answered s (ackRead v s) := ⟨_, _, rfl⟩

/-- A legal read answers and changes nothing else (R57, R60). -/
theorem readReg_answered (n : RegName) (s : State) : Answered s (readReg n s) := by
  cases n with
  | result q =>
    by_cases h : resultsUnspecified s = true
    · exact ⟨_, _, by simp only [readReg, if_pos h]; rfl⟩
    · exact ⟨_, _, by simp only [readReg, if_neg h]; rfl⟩
  | cmd => exact answered_ackRead _ _
  | ctrl => exact answered_ackRead _ _
  | status => exact answered_ackRead _ _
  | operand o => exact answered_ackRead _ _

theorem cmdWrite_ready {s : State} (h : s.ready = true) {c : Word} {i : Instr} (hd : decodeCmd c = .instr i) :
    cmdWrite c s = exec i (respondDraw false s) := by
  simp only [cmdWrite, h, hd, if_true, ackWrite_eq]

theorem cmdWrite_illegal {s : State} (h : s.ready = true) {c : Word} {w : DecodeReject}
    (hd : decodeCmd c = .reject w) : cmdWrite c s = .next (raiseFault .illegalCmd (respondDraw false s)) := by
  simp only [cmdWrite, h, hd, if_true, ackWrite_eq]

theorem cmdWrite_refused {s : State} (h : s.ready = false) (c : Word) :
    cmdWrite c s = .next (respondDraw true s) := by
  simp [cmdWrite, h]

theorem ctrlWrite_reset {d : Word} (h : ctrlSreset d = true) (s : State) :
    ctrlWrite d s = .next (applyReset (respondDraw false s)) := by
  simp [ctrlWrite, decodeCtrl, h, exec, execSreset]

theorem ctrlWrite_skip {d : Word} (h : ctrlSreset d = false) (s : State) :
    ctrlWrite d s = .next (respondDraw false s) := by
  simp [ctrlWrite, decodeCtrl, h]

/-- A CMD word never decodes to SRESET, and a CTRL word to nothing else. -/
theorem decodeCmd_not_sreset (c d : Word) : decodeCmd c ≠ .instr (.sreset d) := by
  unfold decodeCmd
  repeat' split
  all_goals simp

/-- What a transaction can do: it always ends, and in one of these ways. -/
theorem transact_effect (t : Transaction) (s : State) :
    ∃ s', transact t s = .next s' ∧
      (Answered s s' ∨
       (∃ o, t.we = true ∧ t.target = some (.operand o) ∧ s.fsm ≠ .busy ∧
          s' = respondDraw false (setOperand o t.wdata s)) ∨
       (∃ o, t.we = true ∧ t.target = some .cmd ∧ s.ready = true ∧ s' = accept o (respondDraw false s)) ∨
       (t.we = true ∧ t.target = some .cmd ∧ s.ready = true ∧ s' = raiseFault .illegalCmd (respondDraw false s)) ∨
       (t.we = true ∧ t.target = some .ctrl ∧ ctrlSreset t.wdata = true ∧ s' = applyReset (respondDraw false s))) := by
  cases ht : t.target with
  | none => exact ⟨_, transact_illegal ht s, .inl (answered_respondDraw _ _)⟩
  | some n =>
    cases hw : t.we with
    | false => exact ⟨_, transact_read ht hw s, .inl (readReg_answered _ _)⟩
    | true =>
      rw [transact_write ht hw]
      cases n with
      | status => exact ⟨_, rfl, .inl (answered_respondDraw _ _)⟩
      | result q => exact ⟨_, rfl, .inl (answered_respondDraw _ _)⟩
      | operand o =>
        by_cases hb : s.fsm = .busy
        · exact ⟨_, rfl, .inl (by simpa [operandWrite, hb] using answered_respondDraw true s)⟩
        · exact ⟨_, rfl, .inr (.inl ⟨o, rfl, rfl, hb, by simp [operandWrite, hb]⟩)⟩
      | ctrl =>
        cases hd : ctrlSreset t.wdata with
        | true => exact ⟨_, ctrlWrite_reset hd s, .inr (.inr (.inr (.inr ⟨rfl, rfl, rfl, rfl⟩)))⟩
        | false => exact ⟨_, ctrlWrite_skip hd s, .inl (answered_respondDraw _ _)⟩
      | cmd =>
        cases hr : s.ready with
        | false => exact ⟨_, cmdWrite_refused hr _, .inl (answered_respondDraw _ _)⟩
        | true =>
          cases hd : decodeCmd t.wdata with
          | reject w => exact ⟨_, cmdWrite_illegal hr hd, .inr (.inr (.inr (.inl ⟨rfl, rfl, rfl, rfl⟩)))⟩
          | instr i =>
            have hr' : (respondDraw false s).ready = true := hr
            have he : writeReg .cmd t.wdata s = exec i (respondDraw false s) := cmdWrite_ready hr hd
            rw [he]
            rcases exec_ready hr' i with h | ⟨o, _, h⟩ | ⟨d, rfl, _, _⟩
            · exact ⟨_, h, .inl (answered_respondDraw _ _)⟩
            · exact ⟨_, h, .inr (.inr (.inl ⟨o, rfl, rfl, rfl, rfl⟩))⟩
            · exact absurd hd (decodeCmd_not_sreset _ _)

/-! The core agent's turn. -/

theorem completion_inFlight {s : State} {o : Op} (h : s.fsm = .busy) (ho : s.op = some o) :
    completion s = exec o.instr { s with response := none } := by
  unfold completion
  rw [if_pos h]
  split
  · rename_i o' heq
    cases ho.symm.trans heq
    rfl
  · rename_i heq
    cases ho.symm.trans heq

theorem completion_empty {s : State} (h : s.fsm = .busy) (ho : s.op = none) :
    completion s = .fault .noOperationInFlight := by
  unfold completion
  rw [if_pos h]
  split
  · rename_i o heq
    cases ho.symm.trans heq
  · rfl

/-! Steps. -/

/-- The state with its next turn taken off the list. -/
def popTurn (s : State) : State := { s with inputs := s.inputs.tail }

/-- The state a turn without a transaction leaves the core agent or the port: the turn taken, no response. -/
def unanswered (s : State) : State := { popTurn s with response := none }

/-- The state a transaction takes effect on: the turn taken, the port free. -/
def portFreed (s : State) : State := { popTurn s with port := .idle }

@[simp] theorem popTurn_operands (s : State) : (popTurn s).operands = s.operands := rfl
@[simp] theorem popTurn_results (s : State) : (popTurn s).results = s.results := rfl
@[simp] theorem popTurn_fsm (s : State) : (popTurn s).fsm = s.fsm := rfl
@[simp] theorem popTurn_cause (s : State) : (popTurn s).cause = s.cause := rfl
@[simp] theorem popTurn_op (s : State) : (popTurn s).op = s.op := rfl
@[simp] theorem popTurn_kBound (s : State) : (popTurn s).kBound = s.kBound := rfl
@[simp] theorem popTurn_draws (s : State) : (popTurn s).draws = s.draws := rfl
@[simp] theorem popTurn_port (s : State) : (popTurn s).port = s.port := rfl
@[simp] theorem popTurn_response (s : State) : (popTurn s).response = s.response := rfl
@[simp] theorem popTurn_inputs (s : State) : (popTurn s).inputs = s.inputs.tail := rfl
@[simp] theorem unanswered_operands (s : State) : (unanswered s).operands = s.operands := rfl
@[simp] theorem unanswered_results (s : State) : (unanswered s).results = s.results := rfl
@[simp] theorem unanswered_fsm (s : State) : (unanswered s).fsm = s.fsm := rfl
@[simp] theorem unanswered_cause (s : State) : (unanswered s).cause = s.cause := rfl
@[simp] theorem unanswered_op (s : State) : (unanswered s).op = s.op := rfl
@[simp] theorem unanswered_kBound (s : State) : (unanswered s).kBound = s.kBound := rfl
@[simp] theorem unanswered_draws (s : State) : (unanswered s).draws = s.draws := rfl
@[simp] theorem unanswered_port (s : State) : (unanswered s).port = s.port := rfl
@[simp] theorem unanswered_response (s : State) : (unanswered s).response = none := rfl
@[simp] theorem unanswered_inputs (s : State) : (unanswered s).inputs = s.inputs.tail := rfl
@[simp] theorem portFreed_operands (s : State) : (portFreed s).operands = s.operands := rfl
@[simp] theorem portFreed_results (s : State) : (portFreed s).results = s.results := rfl
@[simp] theorem portFreed_fsm (s : State) : (portFreed s).fsm = s.fsm := rfl
@[simp] theorem portFreed_cause (s : State) : (portFreed s).cause = s.cause := rfl
@[simp] theorem portFreed_op (s : State) : (portFreed s).op = s.op := rfl
@[simp] theorem portFreed_kBound (s : State) : (portFreed s).kBound = s.kBound := rfl
@[simp] theorem portFreed_draws (s : State) : (portFreed s).draws = s.draws := rfl
@[simp] theorem portFreed_port (s : State) : (portFreed s).port = .idle := rfl
@[simp] theorem portFreed_response (s : State) : (portFreed s).response = s.response := rfl
@[simp] theorem portFreed_inputs (s : State) : (portFreed s).inputs = s.inputs.tail := rfl
@[simp] theorem portFreed_ready (s : State) : (portFreed s).ready = s.ready := rfl

theorem step_eq (s : State) : step s = takeTurn s.nextTurn (popTurn s) := by
  obtain ⟨operands, results, fsm, cause, op, kBound, draws, port, response, inputs⟩ := s
  cases inputs <;> rfl

/-- What a step can do. -/
inductive StepEffect (s : State) : State → Prop
  /-- The `rst` pin resets. -/
  | reset : s.rstNext = true → StepEffect s (hardwareReset (popTurn s))
  /-- The port goes on without a transaction's point of effect. -/
  | port (p : Port) : s.rstNext = false → s.acknowledges = none → s.completesNext = false →
      StepEffect s (quietEdge p (popTurn s))
  /-- The core agent's turn with no operation in flight. -/
  | rest : s.rstNext = false → s.acknowledges = none → s.completesNext = false → StepEffect s (unanswered s)
  /-- A transaction takes effect. -/
  | transaction (t : Transaction) (s' : State) : s.rstNext = false → s.acknowledges = some t →
      s.completesNext = false → transact t (portFreed s) = .next s' → StepEffect s s'
  /-- The operation in flight completes. -/
  | completion (o : Op) (s' : State) : s.rstNext = false → s.acknowledges = none → s.completesNext = true →
      s.op = some o → exec o.instr (unanswered s) = .next s' →
      EndsOperation (unanswered s) s' → StepEffect s s'

/-- Every step goes on in one of these ways, but for one state the spec does not have. -/
theorem step_cases (s : State) :
    (∃ t, step s = .next t ∧ StepEffect s t) ∨
      (step s = .fault .noOperationInFlight ∧ s.completesNext = true ∧ s.op = none) := by
  rw [step_eq]
  cases hn : s.nextTurn with
  | core =>
    have hr : s.rstNext = false := by simp [State.rstNext, hn]
    have ha : s.acknowledges = none := by simp [State.acknowledges, hn]
    by_cases hb : s.fsm = .busy
    · have hc : s.completesNext = true := by simp [State.completesNext, hn, hb]
      have hb' : (popTurn s).fsm = .busy := hb
      cases ho : s.op with
      | none =>
        have ho' : (popTurn s).op = none := ho
        exact .inr ⟨completion_empty hb' ho', hc, rfl⟩
      | some o =>
        have ho' : (popTurn s).op = some o := ho
        obtain ⟨t, ht, he⟩ := exec_inFlight (s := unanswered s) hb' ho'
        exact .inl ⟨t, (completion_inFlight hb' ho').trans ht, .completion o t hr ha hc ho ht he⟩
    · have hc : s.completesNext = false := by simp [State.completesNext, hb]
      have hb' : (popTurn s).fsm ≠ .busy := hb
      exact .inl ⟨unanswered s, by simp only [takeTurn, completion, if_neg hb']; rfl,
        .rest hr ha hc⟩
  | edge p ack =>
    have hc : s.completesNext = false := by simp [State.completesNext, hn]
    cases hp : p.rst with
    | true =>
      exact .inl ⟨_, by simp only [takeTurn, clockEdge, hp, if_true], .reset (by simp [State.rstNext, hn, hp])⟩
    | false =>
      have hr : s.rstNext = false := by simp [State.rstNext, hn, hp]
      cases hq : s.port with
      | idle =>
        have hq' : (popTurn s).port = .idle := hq
        refine .inl ⟨_, ?_, .port (if p.req then awaitAck ack p.transaction else .idle) hr ?_ hc⟩
        · simp [takeTurn, clockEdge, hp, hq]
        · simp [State.acknowledges, hn, hq]
      | waiting t =>
        have hq' : (popTurn s).port = .waiting t := hq
        refine .inl ⟨_, ?_, .port (awaitAck ack t) hr ?_ hc⟩
        · simp [takeTurn, clockEdge, hp, hq]
        · simp [State.acknowledges, hn, hq]
      | acking t =>
        have hq' : (popTurn s).port = .acking t := hq
        have ha : s.acknowledges = some t := by simp [State.acknowledges, hn, hq, hp]
        obtain ⟨s', hs', _⟩ := transact_effect t (portFreed s)
        refine .inl ⟨s', ?_, .transaction t s' hr ha hc hs'⟩
        simp only [takeTurn, clockEdge, hp, hq']
        exact hs'

theorem step_effect {s t : State} (h : step s = .next t) : StepEffect s t := by
  rcases step_cases s with ⟨t', h', e⟩ | ⟨h', _, _⟩
  · rw [h'] at h
    cases h
    exact e
  · rw [h'] at h
    cases h

theorem completesNext_iff (s : State) : s.completesNext = true ↔ s.nextTurn = .core ∧ s.fsm = .busy := by
  simp [State.completesNext]

theorem resetsNext_false {s : State} (h : s.resetsNext = false) {t : Transaction} (ha : s.acknowledges = some t)
    (hw : t.we = true) (ht : t.target = some .ctrl) : ctrlSreset t.wdata = false := by
  simp only [State.resetsNext, ha, hw, ht, Bool.or_eq_false_iff] at h
  simpa using h.2

theorem rstNext_false {s : State} (h : s.resetsNext = false) : s.rstNext = false := by
  simp only [State.resetsNext, Bool.or_eq_false_iff] at h
  exact h.1

/-- A run is its first step and the run after it. -/
theorem run_next {s t : State} (h : step s = .next t) (k : Nat) : Sys2Proof.core.run (k + 1) s = Sys2Proof.core.run k t := by
  have h' : Sys2Proof.core.step s = .next t := h
  simp only [Host.Core.run, h']

end Sys2Proof.Machine
end

