-- ==== Sys2Proof/Laws/PerInstr.lean ====
section
/-!
SUPPORT. A family of statements made per instruction: the encoder's word is read back as the instruction, at the register it is
written to.
-/
namespace Sys2Proof.Laws.ReadBack

/-- A well-formed instruction's word decodes to it. -/
def Statement (i : Instr) : Prop := i.wellFormed = true → decode (encode i).1 (encode i).2 = .instr i

theorem nop : Statement .nop := fun _ => by decide

theorem combine : Statement .combine := fun _ => by decide

theorem reduce : Statement .reduce := fun _ => by decide

theorem hash : Statement .hash := fun _ => by decide

theorem sreset (d : Word) : Statement (.sreset d) := by
  intro h
  have hb : ctrlSreset d = true := h
  simp only [encode, decode, decodeCtrl, hb, if_true]

end Sys2Proof.Laws.ReadBack
end

