-- ==== Sys2Proof/Laws/Decode.lean ====
section
/-!
SUPPORT. The byte lanes of a word, and a command word as its two fields.
-/
namespace Sys2Proof

/-- The four lanes of a word, put together again, are the word (R54). -/
theorem wordOfLanes_lanes (w : Word) : wordOfLanes (lane w 0) (lane w 1) (lane w 2) (lane w 3) = w := by
  apply BitVec.eq_of_toNat_eq
  have := w.isLt
  simp only [wordOfLanes, lane, BitVec.toNat_append, BitVec.extractLsb'_toNat, Nat.shiftRight_eq_div_pow]
  rw [← Nat.shiftLeft_add_eq_or_of_lt (by omega), ← Nat.shiftLeft_add_eq_or_of_lt (by omega),
    ← Nat.shiftLeft_add_eq_or_of_lt (by omega)]
  simp only [Nat.shiftLeft_eq]
  omega

/-- A command word is RSV and OP (R75). -/
theorem cmdWord_split (c : Word) : c.toNat = (cmdRsv c).toNat * 16 + (cmdOp c).toNat := by
  simp only [cmdRsv, cmdOp, BitVec.extractLsb'_toNat, Nat.shiftRight_eq_div_pow]
  have := c.isLt
  omega

/-- A word is rejected, or it is an instruction. -/
theorem decodeCmd_rejected_iff (c : Word) : (∃ w, decodeCmd c = .reject w) ↔ ∀ i, decodeCmd c ≠ .instr i := by
  cases decodeCmd c <;> simp

end Sys2Proof
end

