-- ==== Sys2Proof/Laws/Flags.lean ====
section
/-!
SUPPORT. STATUS and the readability of the results depend on `cause` and `fsm` only.
-/
namespace Sys2Proof.Machine

/-- STATUS as a function of the two fields it is composed from (R28). -/
theorem statusWord_of {s : State} {c : BitVec 4} {f : Fsm} (hc : s.cause = c) (hf : s.fsm = f) :
    statusWord s = (c.setWidth 32 <<< 8) ||| (bit (f = .fault) <<< 2) ||| (bit (f = .done) <<< 1) ||| bit (f = .busy) := by
  rw [statusWord, hc, hf]

/-- The fields of STATUS (R28), for every cause code and state. -/
theorem statusWord_fields (s : State) :
    (statusWord s).getLsbD 0 = decide (s.fsm = .busy) ∧ (statusWord s).getLsbD 1 = decide (s.fsm = .done) ∧
      (statusWord s).getLsbD 2 = decide (s.fsm = .fault) ∧ (statusWord s).extractLsb' 3 5 = 0 ∧
      (statusWord s).extractLsb' 8 4 = s.cause ∧ (statusWord s).extractLsb' 12 20 = 0 := by
  rw [statusWord_of rfl rfl]
  generalize s.cause = c
  revert c
  cases s.fsm <;> decide

/-- R23's condition, as the rule states it. -/
theorem resultsUnspecified_iff (s : State) :
    resultsUnspecified s = true ↔ (s.fsm = .busy ∨ (s.fsm = .fault ∧ s.cause ∈ [2, 3, 4, 5])) := by
  simp [resultsUnspecified, or_assoc]

end Sys2Proof.Machine
end

