-- ==== Sys2Proof/Laws/HostSyntax.lean ====
section
/-!
SUPPORT. What straight-line operand loads do (R58, R84, R85), and the limbs of a wide immediate.
-/
namespace Sys2Proof.Machine

/-- A legal operand write is one transaction (R58). -/
theorem transact_operand (o : OperandReg) (v : Word) (s : State) :
    transact (writeOf (.operand o) v) s = .next (operandWrite o v s) := by
  rw [transact_write (writeOf_target _ _) rfl]
  rfl

theorem operandWrite_accepted {s : State} (h : s.fsm ≠ .busy) (o : OperandReg) (v : Word) :
    operandWrite o v s = respondDraw false (setOperand o v s) := by
  simp [operandWrite, h]

theorem operandWrite_refused {s : State} (h : s.fsm = .busy) (o : OperandReg) (v : Word) :
    operandWrite o v s = respondDraw true s := by
  simp [operandWrite, h]

@[simp] theorem runStmts_nil (s : State) : runStmts [] s = .next s := rfl

theorem runStmts_wr (o : OperandReg) (v : Word) (rest : List HostStmt) (s : State) :
    runStmts (.wr (.operand o) v :: rest) s = runStmts rest (operandWrite o v s) := by
  simp only [runStmts, HostStmt.transaction, transact_operand]

/-- The state after a list of accepted operand writes, each one transaction. -/
def afterLoads (l : List (OperandReg × Word)) (s : State) : State :=
  l.foldl (fun s p => respondDraw false (setOperand p.1 p.2 s)) s

/-- A sequence of operand writes, not while BUSY, is accepted whole. -/
theorem runStmts_loads (l : List (OperandReg × Word)) (s : State) (h : s.fsm ≠ .busy) :
    runStmts (l.map fun p => .wr (.operand p.1) p.2) s = .next (afterLoads l s) := by
  induction l generalizing s with
  | nil => rfl
  | cons p rest ih =>
    rw [List.map_cons, runStmts_wr, operandWrite_accepted h]
    exact ih _ h

/-- A limb of an immediate as an integer. -/
theorem limbOf_toNat {n : Nat} (v : BitVec n) (i : Nat) : (limbOf v i).toNat = v.toNat / 2 ^ (32 * i) % 2 ^ 32 := by
  simp [limbOf, BitVec.extractLsb'_toNat, Nat.shiftRight_eq_div_pow]

end Sys2Proof.Machine
end

