-- ==== Sys2Proof/Tests/Slice0.lean ====
section
/-!
SUPPORT. The model's own tests: ill-formed terms, words written out from the spec's encoding, the spec's vectors
(95_test_vectors.md), and a witness for the hypotheses of each statement.
-/
namespace Sys2Proof.Machine

/-! ## Well-formedness -/

/-- The table's SRESET row has bit 0 set; a CTRL word without it is no SRESET. -/
theorem test_sreset_without_bit0_is_ill_formed : (Instr.sreset 0xFFFFFFFE).wellFormed = false := by decide

theorem test_sreset_ignores_high_bits : (Instr.sreset 0xFFFFFFFF).wellFormed = true := by decide

/-! ## Decoding: words written out bit by bit (R75, R76, R80; V-S5, V-S11, V-S12) -/

theorem test_decode_nop : decodeCmd 0b00000000000000000000000000000000 = .instr .nop := by decide
theorem test_decode_combine : decodeCmd 0b00000000000000000000000000000001 = .instr .combine := by decide
theorem test_decode_reduce : decodeCmd 0b00000000000000000000000000000010 = .instr .reduce := by decide
theorem test_decode_hash : decodeCmd 0b00000000000000000000000000000011 = .instr .hash := by decide
theorem test_decode_sreset : decodeCtrl 0b00000000000000000000000000000001 = .instr (.sreset 1) := by decide
theorem test_decode_sreset_ignored_bits : decodeCtrl 0b10000000000000000000000000000001 = .instr (.sreset 0x80000001) := by
  decide
theorem test_decode_rsv : decodeCmd 0x00000010 = .reject .reservedBits := by decide
theorem test_decode_rsv_top : decodeCmd 0x80000001 = .reject .reservedBits := by decide
theorem test_decode_op4 : decodeCmd 0x00000004 = .reject .reservedOp := by decide
theorem test_decode_opF : decodeCmd 0x0000000F = .reject .reservedOp := by decide
theorem test_decode_ctrl_clear : decodeCtrl 0xFFFFFFFE = .reject .noSoftReset := by decide
theorem test_decode_lanes : decodeBytes .cmd [0x03, 0x00, 0x00, 0x00] = .instr .hash := by decide
theorem test_decode_truncated : decodeBytes .cmd [0x03, 0x00, 0x00] = .reject .truncated := by decide
theorem test_table_combine : decodeTableWord 32 1 = some .combine := by decide
theorem test_table_sreset : decodeTableWord 8 1 = some (.sreset 1) := by decide

/-- A table row's word, placed as the next instruction at reset, runs. -/
theorem test_fetched_hash_is_accepted :
    ∃ t, step (State.reset.withFetchWord 32 3) = .next t ∧ t.fsm = .busy ∧ t.op = some .hash := ⟨_, rfl, rfl, rfl⟩

/-! ## The spec's vectors -/

/-- P = 11, m = 4, A = 3, B = 5, X = 7 (V-H1). -/
def vH1 : OperandRegs :=
  { OperandRegs.reset with a := ⟨3, 0, 0⟩, b := ⟨5, 0, 0⟩, x := ⟨7, 0⟩, p := ⟨11, 0, 0⟩, m := 4 }

/-- P = 11, m = 1000 and a one-limb Y (V-R14 to V-R16). -/
def vR (y : Word) : OperandRegs :=
  { OperandRegs.reset with p := ⟨11, 0, 0⟩, m := 1000, yi := ⟨y, 0, 0, 0, 0⟩ }

/-- An operation in flight on given operands. -/
def inFlight (o : Op) (q : OperandRegs) (kb : Option IterBound) : State :=
  { State.reset with fsm := .busy, op := some o, operands := q, kBound := kb }

/-- What a step or an operation leaves, read through a function. -/
def look {α : Type} (f : State → α) : Host.Outcome State Fault Refusal → Option α
  | .next s => some (f s)
  | .fault _ => none
  | .refused _ => none

/-- T1. -/
theorem test_combine_maximum_product :
    combine ⟨0xffffffff, 0xffffffff, 0xffffffff⟩ ⟨0, 0, 0⟩ ⟨0xffffffff, 0xffffffff⟩
      = ⟨1, 0, 0xffffffff, 0xfffffffe, 0xffffffff⟩ := by decide

/-- V-C11, on the reference algorithm. -/
theorem test_combineRef_mixed :
    combineRef ⟨0x9ABCDEF0, 0x12345678, 0x0FEDCBA9⟩ ⟨0x11111111, 0x22222222, 0x33333333⟩ ⟨0xDEADBEEF, 0xCAFEBABE⟩
      = ⟨0x7D0B5321, 0xA32490A9, 0x4DD4DF27, 0x206E610F, 0x0CA17C42⟩ := by decide

/-- T3 and T4: the source's golden values. -/
theorem test_reduce_goldens :
    reduce none ⟨11, 0, 0⟩ 1000 ⟨273, 0, 0, 0, 0⟩ = .ok 9 ∧ reduce none ⟨11, 0, 0⟩ 5 ⟨273, 0, 0, 0, 0⟩ = .ok 4 := by decide

/-- V-R9: 89-bit P, with a residue of three limbs. -/
theorem test_reduce_89_bit :
    reduce none ⟨0xFFFFFFFF, 0xFFFFFFFF, 0x01FFFFFF⟩ 0xFFFFFFFF ⟨0, 0, 0xFFFFFFFF, 0xFFFFFFFF, 0xFFFFFFFF⟩ = .ok 127 := by
  decide

/-- T3 on the reference algorithm: 24 commits in phase 1, none in phase 2. -/
theorem test_phases_commits :
    phase1 25 ⟨273, 0, 0, 0, 0⟩ ⟨11, 0, 0⟩ = some (⟨9, 0, 0, 0, 0⟩, 24) ∧
      phase2 1 ⟨9, 0, 0, 0, 0⟩ 1000 = some (⟨9, 0, 0, 0, 0⟩, 0) := by decide

/-- V-R21, V-R22, V-R23: the order of the checks. -/
theorem test_check_order :
    reduce none ⟨0, 0, 0⟩ 0 ⟨1, 0, 0, 0, 0⟩ = .fault .pZero ∧
      reduce (some ⟨1, by decide⟩) ⟨0, 0, 0⟩ 0 ⟨5, 0, 0, 0, 0⟩ = .fault .pZero ∧
      reduce (some ⟨1, by decide⟩) ⟨11, 0, 0⟩ 0 ⟨273, 0, 0, 0, 0⟩ = .fault .mZero := by decide

/-- V-R14 and V-R15: 43 < 4·11 passes, 44 does not, and STATUS is then 0x404. -/
theorem test_reduce_bound :
    look (fun t => t.results.r) (exec .reduce (inFlight .reduce (vR 43) (some ⟨4, by decide⟩))) = some 10 ∧
      look statusWord (exec .reduce (inFlight .reduce (vR 44) (some ⟨4, by decide⟩))) = some 0x404 := by decide

/-- V-H1: YO = 26, R = 0. -/
theorem test_hash_small :
    look (fun t => t.results) (exec .hash (inFlight .hash vH1 none)) = some { yo := ⟨26, 0, 0, 0, 0⟩, r := 0 } := by decide

/-- V-H4: the 89/64 family's boundary. -/
theorem test_hash_89_64 :
    look (fun t => t.results) (exec .hash (inFlight .hash
        { OperandRegs.reset with
          a := ⟨0xFFFFFFFE, 0xFFFFFFFF, 0x01FFFFFF⟩, b := ⟨0xFFFFFFFE, 0xFFFFFFFF, 0x01FFFFFF⟩
          x := ⟨0xFFFFFFFF, 0xFFFFFFFF⟩, p := ⟨0xFFFFFFFF, 0xFFFFFFFF, 0x01FFFFFF⟩, m := 0xFFFFFFFF } none))
      = some { yo := ⟨0, 0, 0xFFFFFFFE, 0xFFFFFFFF, 0x01FFFFFF⟩, r := 0x01FFFFFE } := by decide

/-- V-H7 and V-H8: 26 ≥ 2·11 faults, 26 < 3·11 does not. -/
theorem test_hash_bound :
    look statusWord (exec .hash (inFlight .hash vH1 (some ⟨2, by decide⟩))) = some 0x404 ∧
      look statusWord (exec .hash (inFlight .hash vH1 (some ⟨3, by decide⟩))) = some 0x002 := by decide

/-- V-S4: NOP in DONE keeps DONE. -/
theorem test_nop_keeps_done :
    look statusWord (transact (writeOf .cmd 0) { State.reset with fsm := .done }) = some 2 := by decide

/-- V-S6: SRESET leaves FAULT, and zeroes P0. -/
theorem test_sreset_leaves_fault :
    look (fun t => (statusWord t, t.operands.get .p0))
        (transact (writeOf .ctrl 1) { State.reset with fsm := .fault, cause := 2, operands := vH1 }) = some (0, 0) := by decide

/-- V-S5: an illegal command, RSV ≠ 0. -/
theorem test_illegal_command :
    look statusWord (transact (writeOf .cmd 0x10) State.reset) = some 0x104 := by decide

/-- V-S2 and V-S3: unmapped, misaligned, sub-word and read-only accesses. -/
theorem test_access_errors :
    look (fun t => t.response.map Response.err) (transact ⟨false, 0x0C, 0b1111, 0⟩ State.reset) = some (some true) ∧
      look (fun t => t.response.map Response.err) (transact ⟨false, 0x12, 0b1111, 0⟩ State.reset) = some (some true) ∧
      look (fun t => t.response.map Response.err) (transact ⟨false, 0x10, 0b0011, 0⟩ State.reset) = some (some true) ∧
      look (fun t => t.response.map Response.err) (transact ⟨true, 0xA0, 0b1111, 0⟩ State.reset) = some (some true) := by decide

/-- V-S7: operand writes work in FAULT, CMD writes do not. -/
theorem test_writes_in_fault :
    look (fun t => (t.operands.get .p0, t.response.map Response.err))
        (transact (writeOf (.operand .p0) 0x0B) { State.reset with fsm := .fault, cause := 2 }) = some (0x0B, some false) ∧
      look (fun t => t.response.map Response.err)
        (transact (writeOf .cmd 1) { State.reset with fsm := .fault, cause := 2 }) = some (some true) := by decide

/-- P2's second loop: `2b` names the nearest label before it. -/
theorem test_resolve_back :
    resolve [.label (.numeric 1), .rd .status, .label (.numeric 1), .bnz .status 1 (.back 1)] 3 (.back 1) = some 2 := by decide

theorem test_program_checks :
    programWellFormed Pseudo.wait.expand = true ∧ programWellFormed [.bnz .status 1 (.named "loop")] = false := by decide

/-- P2's polling loop around one completion: a read that sees BUSY goes round, the next one ends the loop and R holds 9. -/
theorem test_wait_around_completion :
    (match runProgram Pseudo.wait.expand [.host, .host, .core, .host, .host]
        (inFlight .reduce { vR 273 with m := 1000 } none) 0 with
     | .next q => decide (q.2 = 2 ∧ q.1.results.r = 9 ∧ statusWord q.1 = 2)
     | .fault _ => false
     | .refused _ => false) = true := by decide

/-! ## Witnesses: the hypotheses of each statement can be met -/

/-- A state in the ack cycle of a host write of `d` to `n`. -/
def writing (n : RegName) (d : Word) (s : State) : State :=
  { s with port := .acking (writeOf n d), inputs := [.edge quietPins true] }

/-- A state in FAULT with a cause code. -/
def faulted (c : BitVec 4) : State := { State.reset with fsm := .fault, cause := c }

/-- A state in DONE. -/
def finished : State := { State.reset with fsm := .done }

theorem witness_EncodeThenDecodeBytes : (Instr.sreset 0x80000001).wellFormed = true := by decide

theorem witness_DecodeThenEncode :
    decode .cmd 0x00000003 = .instr .hash ∧ decode .ctrl 0x80000001 = .instr (.sreset 0x80000001) := by decide

theorem witness_IllegalWordsFault :
    ((0x00000010 : Word).extractLsb' 4 28 ≠ 0) ∧ (4 ≤ ((0x00000004 : Word).extractLsb' 0 4).toNat) ∧
      ¬ ((0x00000003 : Word).extractLsb' 4 28 ≠ 0 ∨ 4 ≤ ((0x00000003 : Word).extractLsb' 0 4).toNat) ∧
      State.reset.fsm = .idle ∧ finished.fsm = .done := by decide

theorem witness_IllegalCommandKeepsResults :
    decodeCmd 0x00000004 = .reject .reservedOp ∧ State.reset.fsm = .idle := by decide

theorem witness_IllegalAccessHasNoEffect :
    (0x12 : BitVec 8).extractLsb' 0 2 ≠ 0 ∧ (0b0111 : BitVec 4) ≠ 0b1111 ∧ ∀ n : RegName, (0xFC : BitVec 8) ≠ n.offset := by
  refine ⟨by decide, by decide, fun n => ?_⟩
  cases n with
  | cmd => decide
  | ctrl => decide
  | status => decide
  | operand o => cases o <;> decide
  | result q => cases q <;> decide

theorem witness_RegisterMapIsOneToOne :
    State.reset.fsm = .idle ∧ (RegName.cmd = .cmd ∨ RegName.cmd = .ctrl) ∧ RegName.cmd.offset = RegName.cmd.offset := by decide

/-- A read that carries write data is a legal read all the same (R74). -/
theorem witness_LegalReadsReturn :
    (∀ n ∈ [RegName.cmd, .ctrl, .status, .operand .yi4, .result .r],
      ({ readOf n with wdata := 0xFFFFFFFF } : Transaction).we = false ∧
        ({ readOf n with wdata := 0xFFFFFFFF } : Transaction).target = some n) ∧
    (inFlight .hash vH1 none).fsm = .busy ∧ ((faulted 5).fsm = .fault ∧ (faulted 5).cause ∈ [2, 3, 4, 5]) ∧
      ¬ ((faulted 1).fsm = .busy ∨ ((faulted 1).fsm = .fault ∧ (faulted 1).cause ∈ [2, 3, 4, 5])) ∧
      ¬ (State.reset.fsm = .busy ∨ (State.reset.fsm = .fault ∧ State.reset.cause ∈ [2, 3, 4, 5])) := by decide

theorem witness_ReadsHaveNoSideEffect : (readOf .status).we = false := by decide

theorem witness_OperandWriteWritesOneRegister : (faulted 2).fsm ≠ .busy ∧ OperandReg.m ≠ OperandReg.a0 := by decide

theorem witness_OperandWriteRefusedWhileBusy : (inFlight .combine vH1 none).fsm = .busy := by decide

theorem witness_ReadOnlyRegistersRefuseWrites :
    (RegName.status = .status ∨ ∃ q, RegName.status = .result q) ∧
      (RegName.result .r = .status ∨ ∃ q, RegName.result .r = .result q) := ⟨.inl rfl, .inr ⟨.r, rfl⟩⟩

theorem witness_StatusFields :
    State.reset.Inv ∧ (inFlight .hash vH1 none).Inv ∧ finished.Inv ∧ (faulted 5).Inv ∧ ¬ (faulted 6).Inv := by decide

theorem witness_HardwareResetFromEveryState :
    ({ quietPins with rst := true } : Pins).rst = true ∧
      ({ inFlight .hash vH1 none with inputs := [.edge { quietPins with rst := true } true] } : State).inputs =
        .edge { quietPins with rst := true } true :: [] := by decide

theorem witness_SoftResetResult :
    (0x00000001 : Word).getLsbD 0 = true ∧ (0xFFFFFFFE : Word).getLsbD 0 = false := by decide

theorem witness_BothResetsHaveTheSameEffect :
    (writing .ctrl 1 (inFlight .hash vH1 none)).resetsNext = true ∧
      ({ faulted 2 with inputs := [.edge { quietPins with rst := true } true] } : State).resetsNext = true := by decide

theorem witness_NopChangesNothing : State.reset.fsm = .idle ∧ finished.fsm = .done := by decide

theorem witness_OperationsAreAccepted : State.reset.fsm = .idle ∧ finished.fsm = .done := by decide

theorem witness_CombineResult :
    (inFlight .combine vH1 none).fsm = .busy ∧ (inFlight .combine vH1 none).op = some .combine := by decide

/-- V-R14 and V-R16: just below the bound, and with no bound. -/
theorem witness_ReduceResult :
    (∀ s ∈ [inFlight .reduce (vR 43) (some ⟨4, by decide⟩), inFlight .reduce (vR 44) none],
      s.fsm = .busy ∧ s.op = some .reduce ∧ s.valP ≠ 0 ∧ s.valM ≠ 0) ∧
      (∀ b, (inFlight .reduce (vR 43) (some ⟨4, by decide⟩)).kBound = some b →
        (inFlight .reduce (vR 43) (some ⟨4, by decide⟩)).valYin
          < b.k * (inFlight .reduce (vR 43) (some ⟨4, by decide⟩)).valP) := by
  refine ⟨by decide, fun b h => ?_⟩
  cases h
  decide

/-- V-H8: just below the bound. -/
theorem witness_HashResult :
    (inFlight .hash vH1 (some ⟨3, by decide⟩)).fsm = .busy ∧ (inFlight .hash vH1 (some ⟨3, by decide⟩)).op = some .hash ∧
      (inFlight .hash vH1 (some ⟨3, by decide⟩)).valP ≠ 0 ∧ (inFlight .hash vH1 (some ⟨3, by decide⟩)).valM ≠ 0 ∧
      ∀ b, (inFlight .hash vH1 (some ⟨3, by decide⟩)).kBound = some b →
        (inFlight .hash vH1 (some ⟨3, by decide⟩)).valA * (inFlight .hash vH1 (some ⟨3, by decide⟩)).valX
          + (inFlight .hash vH1 (some ⟨3, by decide⟩)).valB < b.k * (inFlight .hash vH1 (some ⟨3, by decide⟩)).valP := by
  refine ⟨by decide, by decide, by decide, by decide, fun b h => ?_⟩
  cases h
  decide

/-- V-R18 and V-H6. -/
theorem witness_ZeroPFaults :
    ∀ p ∈ [(inFlight .reduce OperandRegs.reset none, Op.reduce), (inFlight .hash OperandRegs.reset none, Op.hash)],
      p.1.fsm = .busy ∧ p.1.op = some p.2 ∧ p.2 ≠ .combine ∧ p.1.valP = 0 := by decide

/-- V-R20, and the same for HASH. -/
theorem witness_ZeroMFaults :
    ∀ p ∈ [(inFlight .reduce { vR 22 with m := 0 } none, Op.reduce), (inFlight .hash { vH1 with m := 0 } none, Op.hash)],
      p.1.fsm = .busy ∧ p.1.op = some p.2 ∧ p.2 ≠ .combine ∧ p.1.valP ≠ 0 ∧ p.1.valM = 0 := by decide

/-- V-R15 and V-H7: exactly at the bound, and beyond it; V-R14 and V-H8: below it; V-R16: with no bound. -/
theorem witness_IterationBoundFaults :
    (∀ p ∈ [(inFlight .reduce (vR 44) (some ⟨4, by decide⟩), Op.reduce, (⟨4, by decide⟩ : IterBound)),
            (inFlight .hash vH1 (some ⟨2, by decide⟩), Op.hash, (⟨2, by decide⟩ : IterBound))],
      p.1.fsm = .busy ∧ p.1.op = some p.2.1 ∧ p.2.1 ≠ .combine ∧ p.1.valP ≠ 0 ∧ p.1.valM ≠ 0 ∧
        p.1.kBound = some p.2.2 ∧ p.2.2.k * p.1.valP ≤ p.1.toReduce p.2.1) ∧
    (∀ p ∈ [(inFlight .reduce (vR 43) (some ⟨4, by decide⟩), Op.reduce, (⟨4, by decide⟩ : IterBound)),
            (inFlight .hash vH1 (some ⟨3, by decide⟩), Op.hash, (⟨3, by decide⟩ : IterBound))],
      p.1.fsm = .busy ∧ p.1.op = some p.2.1 ∧ p.2.1 ≠ .combine ∧ p.1.valP ≠ 0 ∧ p.1.valM ≠ 0 ∧
        p.1.kBound = some p.2.2 ∧ ¬ p.2.2.k * p.1.valP ≤ p.1.toReduce p.2.1) ∧
    (inFlight .reduce (vR 44) none).fsm = .busy ∧ (inFlight .reduce (vR 44) none).op = some .reduce ∧
      (inFlight .reduce (vR 44) none).kBound = none := by decide

theorem witness_OutcomeDependsOnOperandsOnly :
    (inFlight .hash vH1 none).fsm = .busy ∧ (inFlight .hash vH1 none).op = some .hash ∧
      ({ inFlight .hash vH1 none with draws := 7, results := { ResultRegs.reset with r := 9 } } : State).fsm = .busy ∧
      ({ inFlight .hash vH1 none with draws := 7, results := { ResultRegs.reset with r := 9 } } : State).op = some .hash ∧
      (inFlight .hash vH1 none).operands =
        ({ inFlight .hash vH1 none with draws := 7, results := { ResultRegs.reset with r := 9 } } : State).operands ∧
      (inFlight .hash vH1 none).kBound =
        ({ inFlight .hash vH1 none with draws := 7, results := { ResultRegs.reset with r := 9 } } : State).kBound ∧
      (completeHash (inFlight .hash vH1 none)).fsm = .done ∧
      (completeHash (inFlight .hash OperandRegs.reset none)).fsm = .fault := by decide

theorem witness_ReduceOfHashAccumulatorAgrees :
    ∃ t u : State, exec .hash (inFlight .hash vH1 none) = .next t ∧ t.fsm = .done ∧ u.fsm = .busy ∧ u.op = some .reduce ∧
      u.operands.p = vH1.p ∧ u.operands.m = vH1.m ∧ u.kBound = (inFlight .hash vH1 none).kBound ∧
      u.operands.yi = t.results.yo :=
  ⟨completeHash (inFlight .hash vH1 none),
    inFlight .reduce { vH1 with yi := (completeHash (inFlight .hash vH1 none)).results.yo } none,
    rfl, by decide, rfl, rfl, rfl, rfl, rfl, rfl⟩

theorem witness_CommandsRefusedInBusyAndFault :
    (inFlight .hash vH1 none).fsm = .busy ∧ (faulted 1).fsm = .fault := by decide

theorem witness_OperationFaultUnspecifiesResults : FaultCause.pZero ≠ .illegalCmd := by decide

theorem witness_FaultIsStickyUntilReset :
    (∃ t, (writing (.operand .p0) 11 (faulted 2)).fsm = .fault ∧ step (writing (.operand .p0) 11 (faulted 2)) = .next t ∧
        (writing (.operand .p0) 11 (faulted 2)).resetsNext = false) ∧
      ∃ t, (writing .ctrl 1 (faulted 2)).fsm = .fault ∧ step (writing .ctrl 1 (faulted 2)) = .next t ∧
        (writing .ctrl 1 (faulted 2)).resetsNext = true := ⟨⟨_, rfl, rfl, rfl⟩, _, rfl, rfl, rfl⟩

theorem witness_EveryStepKeepsControlState :
    ∃ t, (inFlight .hash vH1 none).Inv ∧ step (inFlight .hash vH1 none) = .next t := ⟨_, by decide, rfl⟩

theorem witness_SoundStatesStepOn : (faulted 3).Inv := by decide

theorem witness_ConfigurationIsConstant : ∃ t, step (inFlight .hash vH1 (some ⟨2, by decide⟩)) = .next t := ⟨_, rfl⟩

theorem witness_OnlyHostWritesChangeOperands :
    ∃ t, step (writing (.operand .yi4) 5 finished) = .next t ∧ (writing (.operand .yi4) 5 finished).resetsNext = false ∧
      (writing (.operand .yi4) 5 finished).operandNext = some (.yi4, 5) ∧ finished.fsm ≠ .busy := ⟨_, rfl, rfl, rfl, by decide⟩

theorem witness_OperandsStableWhileBusy :
    ∃ t, (inFlight .hash vH1 none).fsm = .busy ∧ (inFlight .hash vH1 none).resetsNext = false ∧
      step (inFlight .hash vH1 none) = .next t := ⟨_, rfl, rfl, rfl⟩

theorem witness_OnlyCompletionChangesResults :
    (∃ t, step (writing .cmd 3 finished) = .next t ∧ (writing .cmd 3 finished).resetsNext = false ∧
        (writing .cmd 3 finished).completesNext = false) ∧
      (∃ t, step (inFlight .reduce (vR 43) none) = .next t ∧ t.fsm = .done ∧ (inFlight .reduce (vR 43) none).op = some .reduce ∧
        (inFlight .reduce (vR 43) none).resetsNext = false) ∧
      ∃ t, step (inFlight .combine vH1 none) = .next t ∧ t.fsm = .done ∧ (inFlight .combine vH1 none).op = some .combine ∧
        (inFlight .combine vH1 none).resetsNext = false :=
  ⟨⟨_, rfl, rfl, rfl⟩, ⟨_, rfl, by decide, rfl, rfl⟩, _, rfl, by decide, rfl, rfl⟩

theorem witness_StateMachineTransitions :
    (∃ t, step (writing .cmd 3 finished) = .next t ∧ t.fsm = .busy ∧ (writing .cmd 3 finished).commandNext = some 3) ∧
      (∃ t, step (writing .cmd 4 finished) = .next t ∧ t.fsm = .fault ∧ (writing .cmd 4 finished).commandNext = some 4) ∧
      ∃ t, step (inFlight .hash OperandRegs.reset none) = .next t ∧ t.fsm = .fault ∧ t.cause = 2 :=
  ⟨⟨_, rfl, rfl, rfl⟩, ⟨_, rfl, rfl, rfl⟩, _, rfl, rfl, rfl⟩

theorem witness_CompletionShowsInStatus :
    ∃ t, (inFlight .hash vH1 none).Inv ∧ (inFlight .hash vH1 none).completesNext = true ∧
      step (inFlight .hash vH1 none) = .next t := ⟨_, by decide, rfl, rfl⟩

theorem witness_StepRunsTheDecodedInstruction :
    ((writing .cmd 2 finished).acknowledges = some (writeOf .cmd 2) ∧ (writeOf .cmd 2).we = true ∧
        (writeOf .cmd 2).target = some .cmd ∧ (writing .cmd 2 finished).fsm = .done ∧ decodeCmd 2 = .instr .reduce) ∧
      ((writing .ctrl 1 (faulted 4)).acknowledges = some (writeOf .ctrl 1) ∧ (writeOf .ctrl 1).we = true ∧
        (writeOf .ctrl 1).target = some .ctrl ∧ decodeCtrl 1 = .instr (.sreset 1)) ∧
      (inFlight .hash vH1 none).completesNext = true ∧ (inFlight .hash vH1 none).op = some .hash := by decide

theorem witness_HandshakeAtAnEdge :
    quietPins.rst = false ∧ quietPins.req = false ∧ ({ quietPins with req := true } : Pins).req = true ∧
      (∀ q ∈ [Port.idle, .waiting (readOf .status), .acking (readOf .status)],
        ({ State.reset with port := q, inputs := [.edge quietPins true] } : State).port = q ∧
        ({ State.reset with port := q, inputs := [.edge quietPins true] } : State).inputs = .edge quietPins true :: []) := by
  decide

theorem witness_AckPin : (writing .cmd 1 State.reset).port = .acking (writeOf .cmd 1) := by decide

theorem witness_OperationEndsWhenNoTurnIsListed :
    ∀ q ∈ [Port.idle, .waiting (readOf .status), .acking (readOf .status)],
      ({ inFlight .hash vH1 none with port := q } : State).Inv ∧ ({ inFlight .hash vH1 none with port := q } : State).fsm = .busy ∧
        ({ inFlight .hash vH1 none with port := q } : State).inputs = [] := by decide

theorem witness_CombineResultBound :
    val3 ⟨0xFFFFFFFF, 0xFFFFFFFF, 0x01FFFFFF⟩ < 2 ^ 89 ∧ (2 ^ 89 : Nat) ≤ 2 ^ 89 := by decide

theorem witness_ColumnsFit : (2 ^ 32 - 1 : Nat) ≤ 2 ^ 32 - 1 ∧ (1 : Nat) ≤ 1 := by decide

theorem witness_BorrowChainSubtracts :
    ((0 : Int) = 0 ∨ (0 : Int) = -1) ∧ ((-1 : Int) = 0 ∨ (-1 : Int) = -1) ∧
      (sub5 ⟨0, 0, 0, 0, 0⟩ ⟨1, 0, 0, 0, 0⟩).2 = true ∧ (sub5 ⟨0, 1, 0, 0, 0⟩ ⟨1, 0, 0, 0, 0⟩).2 = false := by decide

/-- V-R3: Y = P takes one commit. -/
theorem witness_PhaseOneReducesModP :
    val3 ⟨11, 0, 0⟩ ≠ 0 ∧ val5 ⟨11, 0, 0, 0, 0⟩ / val3 ⟨11, 0, 0⟩ < 2 := by decide

/-- V-R4's phase 2: 9 commits. -/
theorem witness_PhaseTwoReducesModM : (1 : Word).toNat ≠ 0 ∧ val5 ⟨9, 0, 0, 0, 0⟩ / (1 : Word).toNat < 10 := by decide

/-- V-R14 within its bound. -/
theorem witness_ReferenceReduceAgrees :
    val3 ⟨11, 0, 0⟩ ≠ 0 ∧ (1000 : Word).toNat ≠ 0 ∧
      (∀ b, (some ⟨4, by decide⟩ : Option IterBound) = some b → val5 ⟨43, 0, 0, 0, 0⟩ < b.k * val3 ⟨11, 0, 0⟩) ∧
      val5 ⟨43, 0, 0, 0, 0⟩ / val3 ⟨11, 0, 0⟩ < 4 ∧ val5 ⟨43, 0, 0, 0, 0⟩ % val3 ⟨11, 0, 0⟩ / (1000 : Word).toNat < 1 := by
  refine ⟨by decide, by decide, fun b h => ?_, by decide, by decide⟩
  cases h
  decide

theorem witness_PhaseOneResidueFitsThreeLimbs :
    val3 ⟨0xFFFFFFFF, 0xFFFFFFFF, 0xFFFFFFFF⟩ ≠ 0 ∧
      val5 ⟨0, 0, 0, 1, 0⟩ / val3 ⟨0xFFFFFFFF, 0xFFFFFFFF, 0xFFFFFFFF⟩ < 2 := by decide

/-- V-R12: m = 2^16. -/
theorem witness_PowerOfTwoModulusIsAMask :
    (0x00010000 : Word).toNat = 2 ^ 16 ∧
      reduce none ⟨0xFFFFFFFF, 0x1FFFFFFF, 0⟩ 0x00010000 ⟨0, 0, 0xFFFFFFFF, 0xFFFFFFFF, 0xFFFFFFFF⟩ = .ok 0xFFF8 := by decide

theorem witness_OperandLoadOrderIsFree : OperandReg.a0 ≠ OperandReg.a1 := by decide

theorem witness_LoadsSetTheQuantity : (faulted 1).fsm ≠ .busy := by decide

end Sys2Proof.Machine
end

/-! The STATUS register (R28). -/

namespace Sys2Proof.Machine

/-- Under the control-state invariant a cause is recorded in FAULT only (R29). -/
theorem State.Inv.cause_eq_zero {s : State} (hs : s.Inv) (hf : s.fsm ≠ .fault) : s.cause = 0 := by
  obtain ⟨hcause, -, -⟩ := hs
  exact not_not.mp (mt hcause.mp hf)

/-- BUSY, DONE and FAULT are all clear exactly in IDLE (R28). -/
theorem statusBits_clear_iff_idle (s : State) :
    ((statusWord s).getLsbD 0 = false ∧ (statusWord s).getLsbD 1 = false ∧ (statusWord s).getLsbD 2 = false) ↔
      s.fsm = .idle := by
  obtain ⟨hbusy, hdone, hfault, -, -, -⟩ := statusWord_fields s
  rw [hbusy, hdone, hfault]
  cases s.fsm <;> decide

/-- A legal register write is one transaction on the register it names (R58, R84). -/
theorem transact_writeOf (n : RegName) (v : Word) (s : State) : transact (writeOf n v) s = writeReg n v s :=
  transact_write (writeOf_target n v) (writeOf_we n v) s

/-- STATUS is read-only: a write to it is an access error (R28, R58). -/
theorem transact_writeOf_status (v : Word) (s : State) :
    transact (writeOf .status v) s = .next (respondDraw true s) := by
  rw [transact_writeOf, writeReg, accessError_eq]

/-- STATUS is 0 in the reset state (R28, R34). -/
theorem statusWord_reset : statusWord State.reset = 0 := by decide

/-- Settles O13: the fields are those of `statusWord_fields`, for every state; the invariant is needed only for CAUSE = 0
outside FAULT. -/
theorem statusFields : Obligations.StatusFields := by
  intro s hs
  obtain ⟨hbusy, hdone, hfault, hlow, hcause, hhigh⟩ := statusWord_fields s
  exact ⟨hbusy, hdone, hfault, hlow, hcause, fun hf => hcause.trans (hs.cause_eq_zero hf), hhigh,
    statusBits_clear_iff_idle s, fun v => transact_writeOf_status v s, statusWord_reset⟩

end Sys2Proof.Machine

/-! Legal reads (R57). -/

namespace Sys2Proof.Machine

/-- A result register reads as a draw under R23's condition. -/
theorem readReg_result_drawn {s : State} (h : s.fsm = .busy ∨ (s.fsm = .fault ∧ s.cause ∈ [2, 3, 4, 5])) (q : ResultReg) :
    readReg (.result q) s = respondDraw false s := by
  rw [readReg, if_pos ((resultsUnspecified_iff s).mpr h), ackDraw_eq]

/-- A result register reads as stored outside R23's condition. -/
theorem readReg_result_stored {s : State} (h : ¬ (s.fsm = .busy ∨ (s.fsm = .fault ∧ s.cause ∈ [2, 3, 4, 5])))
    (q : ResultReg) : readReg (.result q) s = ackRead (s.results.get q) s := by
  rw [readReg, if_neg (mt (resultsUnspecified_iff s).mp h)]

/-- Settles O8: a legal read is `readReg` of its target, whatever its `wdata`; only the result registers split, by R23. -/
theorem legalReadsReturn : Obligations.LegalReadsReturn := by
  intro s t hread
  refine ⟨fun ht => transact_read ht hread s, fun ht => transact_read ht hread s, fun ht => transact_read ht hread s,
    fun o ht => transact_read ht hread s, fun q ht => ⟨fun hdraw => ?_, fun hstored => ?_⟩⟩
  · rw [transact_read ht hread, readReg_result_drawn hdraw]
    rfl
  · rw [transact_read ht hread, readReg_result_stored hstored]
    rfl

end Sys2Proof.Machine

/-! The register map (R51, R53) and the access classes of its registers. -/

namespace Sys2Proof.Machine

/-- No two registers share an offset (R51). -/
theorem offset_injective : Function.Injective RegName.offset := by
  intro n n' h
  have hmap : some n = some n' := by rw [← regAt_offset n, h, regAt_offset]
  exact Option.some.inj hmap

/-- A legal read of one register is one transaction (R57, R84). -/
theorem transact_readOf (n : RegName) (s : State) : transact (readOf n) s = .next (readReg n s) :=
  transact_read (readOf_target n) (readOf_we n) s

/-- Every register of the map answers a read; CMD and CTRL read as 0 (R57). -/
theorem readReg_response (n : RegName) (s : State) :
    ∃ q, (readReg n s).response = some q ∧ q.err = false ∧ (n = .cmd ∨ n = .ctrl → q.rdata = 0) := by
  cases n with
  | cmd => exact ⟨_, rfl, rfl, fun _ => rfl⟩
  | ctrl => exact ⟨_, rfl, rfl, fun _ => rfl⟩
  | status => exact ⟨_, rfl, rfl, by simp⟩
  | operand o => exact ⟨_, rfl, rfl, by simp⟩
  | result q =>
    by_cases h : s.fsm = .busy ∨ (s.fsm = .fault ∧ s.cause ∈ [2, 3, 4, 5])
    · exact ⟨_, by rw [readReg_result_drawn h, respondDraw_response], rfl, by simp⟩
    · exact ⟨_, by rw [readReg_result_stored h, ackRead_response], rfl, by simp⟩

/-- In IDLE and DONE an instruction keeps the answer of the write that brought it (R163, R165, R166). -/
theorem exec_ready_response {s : State} (h : s.ready = true) (i : Instr) :
    ∃ t, exec i s = .next t ∧ t.response = s.response := by
  rcases exec_ready h i with he | ⟨o, -, he⟩ | ⟨d, -, -, he⟩
  · exact ⟨_, he, rfl⟩
  · exact ⟨_, he, accept_response o s⟩
  · exact ⟨_, he, applyReset_response s⟩

/-- In IDLE and DONE a CMD write is acknowledged with `err = 0`, an illegal word too (R163, R164). -/
theorem cmdWrite_ready_response {s : State} (h : s.ready = true) (c : Word) :
    ∃ t, cmdWrite c s = .next t ∧ t.response = (respondDraw false s).response := by
  cases hd : decodeCmd c with
  | instr i =>
    rw [cmdWrite_ready h hd]
    exact exec_ready_response ((respondDraw_ready false s).trans h) i
  | reject w => exact ⟨_, cmdWrite_illegal h hd, raiseFault_response _ _⟩

/-- A CTRL write is acknowledged with `err = 0` in every state (R166). -/
theorem ctrlWrite_response (d : Word) (s : State) :
    ∃ t, ctrlWrite d s = .next t ∧ t.response = (respondDraw false s).response := by
  cases hd : ctrlSreset d with
  | true => exact ⟨_, ctrlWrite_reset hd s, applyReset_response _⟩
  | false => exact ⟨_, ctrlWrite_skip hd s, rfl⟩

/-- In IDLE a write is answered with `err = 1` exactly at the registers the table of R51 marks R (R58). -/
theorem writeReg_idle_response {s : State} (h : s.fsm = .idle) (n : RegName) (v : Word) :
    ∃ t q, writeReg n v s = .next t ∧ t.response = some q ∧ (q.err = true ↔ n = .status ∨ ∃ q', n = .result q') := by
  cases n with
  | cmd =>
    obtain ⟨t, ht, hresp⟩ := cmdWrite_ready_response ((ready_iff s).mpr (.inl h)) v
    exact ⟨t, _, ht, hresp, by simp⟩
  | ctrl =>
    obtain ⟨t, ht, hresp⟩ := ctrlWrite_response v s
    exact ⟨t, _, ht, hresp, by simp⟩
  | operand o =>
    have haccepted : operandWrite o v s = respondDraw false (setOperand o v s) := operandWrite_accepted (by simp [h]) o v
    exact ⟨_, _, congrArg Host.Outcome.next haccepted, rfl, by simp⟩
  | status => exact ⟨_, _, rfl, rfl, by simp⟩
  | result q => exact ⟨_, _, rfl, rfl, by simp⟩

/-- Settles O6: the offsets and the limbs are read off the definitions; the rest is the register map's inverse `regAt` and the
answers to one read and to one write in IDLE. -/
theorem registerMapIsOneToOne : Obligations.RegisterMapIsOneToOne := by
  refine ⟨by decide, fun _ => rfl, fun _ => rfl, fun _ _ => regAt_eq_some, fun _ _ h => offset_injective h, fun _ => ?_,
    fun n s => ?_, fun n v s hidle => ?_⟩
  · exact ⟨rfl, rfl, rfl, rfl, rfl, rfl, rfl, rfl⟩
  · obtain ⟨q, hresp, herr, hzero⟩ := readReg_response n s
    exact ⟨_, q, transact_readOf n s, hresp, herr, hzero⟩
  · rw [transact_writeOf]
    exact writeReg_idle_response hidle n v

end Sys2Proof.Machine

/-! Illegal command words (R77). -/

namespace Sys2Proof

/-- The words of R77: RSV is not zero, or OP is 0x4 or above. -/
def IllegalWord (c : Word) : Prop := cmdRsv c ≠ 0 ∨ 4 ≤ (cmdOp c).toNat

/-- Every illegal word is rejected: by its RSV field, or by its OP field when RSV is zero (R77). -/
theorem decodeCmd_illegalWord {c : Word} (h : IllegalWord c) : ∃ w, decodeCmd c = .reject w := by
  by_cases hrsv : cmdRsv c = 0
  · have hop : 4 ≤ (cmdOp c).toNat := h.resolve_left (not_not_intro hrsv)
    obtain ⟨h0, h1, h2, h3⟩ : cmdOp c ≠ 0 ∧ cmdOp c ≠ 1 ∧ cmdOp c ≠ 2 ∧ cmdOp c ≠ 3 := by bv_omega
    exact ⟨.reservedOp, by simp only [decodeCmd, hrsv, h0, h1, h2, h3, ne_eq, not_true, if_false]⟩
  · exact ⟨.reservedBits, if_pos hrsv⟩

/-- Every other word is one of the four commands of the operation map (R76). -/
theorem decodeCmd_legalWord {c : Word} (h : ¬ IllegalWord c) : ∃ i, decodeCmd c = .instr i := by
  obtain ⟨hrsv, hop⟩ := not_or.mp h
  have hrsv : cmdRsv c = 0 := not_not.mp hrsv
  have hops : cmdOp c = 0 ∨ cmdOp c = 1 ∨ cmdOp c = 2 ∨ cmdOp c = 3 := by bv_omega
  rcases hops with hop | hop | hop | hop
  · exact ⟨.nop, by simp [decodeCmd, hrsv, hop]⟩
  · exact ⟨.combine, by simp [decodeCmd, hrsv, hop]⟩
  · exact ⟨.reduce, by simp [decodeCmd, hrsv, hop]⟩
  · exact ⟨.hash, by simp [decodeCmd, hrsv, hop]⟩

/-- Exactly the illegal words are no instruction (R76, R77). -/
theorem illegalWord_iff (c : Word) : IllegalWord c ↔ ∀ i, decodeCmd c ≠ .instr i := by
  refine ⟨fun h => (decodeCmd_rejected_iff c).mp (decodeCmd_illegalWord h), fun hnone => ?_⟩
  by_contra hlegal
  obtain ⟨i, hi⟩ := decodeCmd_legalWord hlegal
  exact hnone i hi

end Sys2Proof

namespace Sys2Proof.Machine

/-- A rejected word written to CMD in IDLE or DONE raises ILLEGAL_CMD on the acknowledged state (R164). -/
theorem transact_writeOf_cmd_illegal {s : State} (h : s.fsm = .idle ∨ s.fsm = .done) {c : Word} {w : DecodeReject}
    (hd : decodeCmd c = .reject w) :
    transact (writeOf .cmd c) s = .next (raiseFault .illegalCmd (respondDraw false s)) :=
  (transact_writeOf .cmd c s).trans (cmdWrite_illegal ((ready_iff s).mpr h) hd)

/-- Settles O4: the first part is `illegalWord_iff`; the fault is ILLEGAL_CMD's entry, which records no operation. -/
theorem illegalWordsFault : Obligations.IllegalWordsFault := by
  refine fun c => ⟨illegalWord_iff c, fun s hillegal hready => ⟨none, ?_⟩⟩
  obtain ⟨w, hw⟩ := decodeCmd_illegalWord hillegal
  rw [transact_writeOf_cmd_illegal hready hw, raiseFault_illegalCmd]
  rfl

end Sys2Proof.Machine

/-! The columns of the three carry chains (R102, R103). -/

namespace Sys2Proof.Machine

/-- The product of two words is at most (2^32 − 1)^2, the term R103 bounds every column by. -/
theorem word_mul_word_le (u v : Word) : u.toNat * v.toNat ≤ (2 ^ 32 - 1) * (2 ^ 32 - 1) :=
  Nat.mul_le_mul (Nat.le_pred_of_lt u.isLt) (Nat.le_pred_of_lt v.isLt)

/-- A column below (k + 1)·2^32 carries at most k. -/
theorem hi32_le {t k : Nat} (h : t < (k + 1) * 2 ^ 32) : hi32 t ≤ k :=
  Nat.le_of_lt_succ (Nat.div_lt_of_lt_mul (by rwa [Nat.mul_comm]))

/-- A value in a carry's range is the word it is stored as. -/
theorem lo32_toNat_of_le {t : Nat} (h : t ≤ 2 ^ 32 - 1) : (lo32 t).toNat = t := by
  rw [lo32_toNat, Nat.mod_eq_of_lt (by omega)]

theorem column1_le (u v : Word) {c : Nat} (hc : c ≤ 2 ^ 32 - 1) : column1 u v c ≤ 2 ^ 64 - 2 ^ 32 := by
  have hmul := word_mul_word_le u v
  unfold column1; omega

theorem column2_le (w u v : Word) {c : Nat} (hc : c ≤ 2 ^ 32 - 1) : column2 w u v c ≤ 2 ^ 64 - 1 := by
  have hmul := word_mul_word_le u v
  have hw := w.isLt
  unfold column2; omega

theorem column3_le (u v : Word) {c : Nat} (hc : c ≤ 1) : column3 u v c ≤ 2 ^ 33 - 1 := by
  have hu := u.isLt
  have hv := v.isLt
  unfold column3; omega

theorem hi32_column1_le (u v : Word) {c : Nat} (hc : c ≤ 2 ^ 32 - 1) : hi32 (column1 u v c) ≤ 2 ^ 32 - 1 :=
  hi32_le (lt_of_le_of_lt (column1_le u v hc) (by norm_num))

theorem hi32_column2_le (w u v : Word) {c : Nat} (hc : c ≤ 2 ^ 32 - 1) : hi32 (column2 w u v c) ≤ 2 ^ 32 - 1 :=
  hi32_le (lt_of_le_of_lt (column2_le w u v hc) (by norm_num))

theorem hi32_column3_le (u v : Word) {c : Nat} (hc : c ≤ 1) : hi32 (column3 u v c) ≤ 1 :=
  hi32_le (lt_of_le_of_lt (column3_le u v hc) (by norm_num))

/-- Settles O46: each column's bound, and the carry's range that follows from it. -/
theorem columnsFit : Obligations.ColumnsFit := fun u v w _ =>
  ⟨fun hc => ⟨column1_le u v hc, hi32_column1_le u v hc⟩,
    fun hc => ⟨column2_le w u v hc, hi32_column2_le w u v hc⟩,
    fun hc => ⟨column3_le u v hc, hi32_column3_le u v hc⟩⟩

end Sys2Proof.Machine

/-! What the three carry chains compute (R102), and the bound of A·X + B (R104). -/

namespace Sys2Proof.Machine

/-- Chain 1 is A·X[0] exactly: its last carry fits limb 3 (R103). -/
theorem val5_chain1 (a : Limbs3) (x0 : Word) : val5 (chain1 a x0) = val3 a * x0.toNat := by
  unfold chain1
  extract_lets t0 t1 t2
  have hc0 : hi32 t0 ≤ 2 ^ 32 - 1 := hi32_column1_le a.l0 x0 (by norm_num)
  have hc1 : hi32 t1 ≤ 2 ^ 32 - 1 := hi32_column1_le a.l1 x0 hc0
  have hlimb3 : (lo32 (hi32 t2)).toNat = hi32 t2 := lo32_toNat_of_le (hi32_column1_le a.l2 x0 hc1)
  have h0 : (lo32 t0).toNat + hi32 t0 * 2 ^ 32 = a.l0.toNat * x0.toNat + 0 := lo32_hi32 t0
  have h1 : (lo32 t1).toNat + hi32 t1 * 2 ^ 32 = a.l1.toNat * x0.toNat + hi32 t0 := lo32_hi32 t1
  have h2 : (lo32 t2).toNat + hi32 t2 * 2 ^ 32 = a.l2.toNat * x0.toNat + hi32 t1 := lo32_hi32 t2
  simp only [val5, val3, BitVec.reduceToNat]
  linear_combination h0 + 2 ^ 32 * h1 + 2 ^ 64 * h2 + 2 ^ 96 * hlimb3

/-- Chain 2 adds A·X[1] one limb higher, exactly, when limb 4 is still clear: its last carry fits there (R103). -/
theorem val5_chain2 {y : Limbs5} (hy : y.l4 = 0) (a : Limbs3) (x1 : Word) :
    val5 (chain2 y a x1) = val5 y + 2 ^ 32 * (val3 a * x1.toNat) := by
  unfold chain2
  extract_lets t0 t1 t2
  have hc0 : hi32 t0 ≤ 2 ^ 32 - 1 := hi32_column2_le y.l1 a.l0 x1 (by norm_num)
  have hc1 : hi32 t1 ≤ 2 ^ 32 - 1 := hi32_column2_le y.l2 a.l1 x1 hc0
  have hlimb4 : (lo32 (hi32 t2)).toNat = hi32 t2 := lo32_toNat_of_le (hi32_column2_le y.l3 a.l2 x1 hc1)
  have h0 : (lo32 t0).toNat + hi32 t0 * 2 ^ 32 = y.l1.toNat + a.l0.toNat * x1.toNat + 0 := lo32_hi32 t0
  have h1 : (lo32 t1).toNat + hi32 t1 * 2 ^ 32 = y.l2.toNat + a.l1.toNat * x1.toNat + hi32 t0 := lo32_hi32 t1
  have h2 : (lo32 t2).toNat + hi32 t2 * 2 ^ 32 = y.l3.toNat + a.l2.toNat * x1.toNat + hi32 t1 := lo32_hi32 t2
  have hclear : y.l4.toNat = 0 := by rw [hy]; rfl
  simp only [val5, val3]
  linear_combination 2 ^ 32 * h0 + 2 ^ 64 * h1 + 2 ^ 96 * h2 + 2 ^ 128 * hlimb4 + 2 ^ 128 * hclear.symm

/-- Chain 3 adds B exactly, its carry out of limb 4 counting 2^160. -/
theorem val5_chain3 (y : Limbs5) (b : Limbs3) :
    val5 (chain3 y b).1 + 2 ^ 160 * (chain3 y b).2 = val5 y + val3 b := by
  unfold chain3
  extract_lets t0 t1 t2 t3 t4
  have h0 : (lo32 t0).toNat + hi32 t0 * 2 ^ 32 = y.l0.toNat + b.l0.toNat + 0 := lo32_hi32 t0
  have h1 : (lo32 t1).toNat + hi32 t1 * 2 ^ 32 = y.l1.toNat + b.l1.toNat + hi32 t0 := lo32_hi32 t1
  have h2 : (lo32 t2).toNat + hi32 t2 * 2 ^ 32 = y.l2.toNat + b.l2.toNat + hi32 t1 := lo32_hi32 t2
  have h3 : (lo32 t3).toNat + hi32 t3 * 2 ^ 32 = y.l3.toNat + 0 + hi32 t2 := lo32_hi32 t3
  have h4 : (lo32 t4).toNat + hi32 t4 * 2 ^ 32 = y.l4.toNat + 0 + hi32 t3 := lo32_hi32 t4
  simp only [val5, val3]
  linear_combination h0 + 2 ^ 32 * h1 + 2 ^ 64 * h2 + 2 ^ 96 * h3 + 2 ^ 128 * h4

/-- The three chains together represent A·X + B, with the carry out of limb 4 counting 2^160 (R102). -/
theorem val5_combineChains (a b : Limbs3) (x : Limbs2) :
    val5 (combineChains a b x).1 + 2 ^ 160 * (combineChains a b x).2 = val3 a * val2 x + val3 b := by
  rw [combineChains, val5_chain3, val5_chain2 rfl, val5_chain1, val2]
  ring

/-- Chain 3 never carries out of limb 4: A·X + B fits five limbs (R104). -/
theorem combineChains_carry (a b : Limbs3) (x : Limbs2) : (combineChains a b x).2 = 0 := by
  have hsum := val5_combineChains a b x
  have hfits := combine_fits a b x
  omega

/-- With A and B at most k, A·X + B is at most k·(2^64 − 1) + k = k·2^64 (R104). -/
theorem combine_value_le {a b : Limbs3} {k : Nat} (x : Limbs2) (ha : val3 a ≤ k) (hb : val3 b ≤ k) :
    val3 a * val2 x + val3 b ≤ k * 2 ^ 64 := by
  have hmul : val3 a * val2 x ≤ k * (2 ^ 64 - 1) := Nat.mul_le_mul ha (Nat.le_pred_of_lt (val2_lt x))
  omega

/-- Every word is a limb 4: with A = B = 2^96 − 1 and X = w·2^32 + 2^32 − 1, A·X + B is (2^96 − 1)·(w + 1)·2^32. -/
theorem combine_limb4_eq (w : Word) :
    (combine ⟨0xFFFFFFFF, 0xFFFFFFFF, 0xFFFFFFFF⟩ ⟨0xFFFFFFFF, 0xFFFFFFFF, 0xFFFFFFFF⟩ ⟨0xFFFFFFFF, w⟩).l4 = w := by
  have hvalue : val3 ⟨0xFFFFFFFF, 0xFFFFFFFF, 0xFFFFFFFF⟩ * val2 ⟨0xFFFFFFFF, w⟩ +
      val3 ⟨0xFFFFFFFF, 0xFFFFFFFF, 0xFFFFFFFF⟩ = (2 ^ 96 - 1) * ((w.toNat + 1) * 2 ^ 32) := by
    simp only [val3, val2, BitVec.reduceToNat]
    omega
  have hquot : (2 ^ 96 - 1) * ((w.toNat + 1) * 2 ^ 32) / 2 ^ 128 = w.toNat := by
    have hw := w.isLt
    exact Nat.div_eq_of_lt_le (by omega) (by omega)
  apply BitVec.eq_of_toNat_eq
  simp only [combine, limbs5, hvalue, lo32_toNat, hquot, Nat.mod_eq_of_lt w.isLt]

/-- Settles O45: R104's bound with k = 2^96 − 1 and with k = 2^89 − 1, no carry out of limb 4, and a preimage of every
limb 4. -/
theorem combineResultBound : Obligations.CombineResultBound := by
  refine ⟨fun a b x => ⟨?_, combineChains_carry a b x⟩, fun w => ⟨_, _, _, combine_limb4_eq w⟩, ?_⟩
  · exact combine_value_le x (Nat.le_pred_of_lt (val3_lt a)) (Nat.le_pred_of_lt (val3_lt b))
  · intro a b x p ha hb hp
    calc val3 a * val2 x + val3 b
        ≤ (2 ^ 89 - 1) * 2 ^ 64 := combine_value_le x (by omega) (by omega)
      _ < 2 ^ 153 := by norm_num

end Sys2Proof.Machine

/-! COMBINE in flight (R100, R101). -/

namespace Sys2Proof.Machine

/-- COMBINE in flight completes (R100, R167). -/
theorem exec_combine_inFlight {s : State} (hbusy : s.fsm = .busy) (hop : s.op = some .combine) :
    exec .combine s = .next (completeCombine s) :=
  operate_inFlight hbusy hop completeCombine

/-- COMBINE's completion leaves A·X + B in YO0-YO4, no bit dropped (R101). -/
theorem val5_yo_completeCombine (s : State) :
    val5 (completeCombine s).results.yo = s.valA * s.valX + s.valB := by
  simp only [completeCombine, finish_results, writeYo_results]
  exact val5_combine _ _ _

/-- COMBINE's completion writes YO0-YO4, ends in DONE with no operation in flight, and keeps the rest (R100, R168). -/
theorem completeCombine_frame (s : State) :
    completeCombine s =
      { s with results := { s.results with yo := (completeCombine s).results.yo }, fsm := .done,
               op := (completeCombine s).op } := rfl

/-- Settles O20: the completion's value of YO and its frame. -/
theorem combineResult : Obligations.CombineResult := fun s hbusy hop =>
  ⟨completeCombine s, exec_combine_inFlight hbusy hop, val5_yo_completeCombine s, completeCombine_frame s⟩

end Sys2Proof.Machine

/-! The borrow-chain subtractor (R122). -/

namespace Sys2Proof.Machine

/-- A borrow column reaches from −2^32 (all of V, and a borrow) to 2^32 − 1 (all of U). -/
theorem borrowColumn_range {b : Int} (hb : b = 0 ∨ b = -1) (u v : Word) :
    -(2 ^ 32) ≤ borrowColumn b u v ∧ borrowColumn b u v ≤ 2 ^ 32 - 1 := by
  have hu := u.isLt
  have hv := v.isLt
  unfold borrowColumn
  omega

/-- The borrow out of a column is again 0 or −1: the column lies within one word of zero. -/
theorem asr32_borrowColumn {b : Int} (hb : b = 0 ∨ b = -1) (u v : Word) :
    asr32 (borrowColumn b u v) = 0 ∨ asr32 (borrowColumn b u v) = -1 := by
  obtain ⟨hlow, hhigh⟩ := borrowColumn_range hb u v
  have hsplit := loColumn_asr32 (borrowColumn b u v)
  have hword := (loColumn (borrowColumn b u v)).isLt
  omega

/-- The five columns add up to U − V, the borrow `b` out of limb 4 counting 2^160; `neg` is that borrow (R122). -/
theorem sub5_borrow (u v : Limbs5) :
    ∃ b : Int, (b = 0 ∨ b = -1) ∧ ((sub5 u v).2 = true ↔ b = -1) ∧
      (val5 (sub5 u v).1 : Int) + b * 2 ^ 160 = val5 u - val5 v := by
  unfold sub5
  extract_lets c0 c1 c2 c3 c4
  have hb0 : asr32 c0 = 0 ∨ asr32 c0 = -1 := asr32_borrowColumn (.inl rfl) u.l0 v.l0
  have hb1 : asr32 c1 = 0 ∨ asr32 c1 = -1 := asr32_borrowColumn hb0 u.l1 v.l1
  have hb2 : asr32 c2 = 0 ∨ asr32 c2 = -1 := asr32_borrowColumn hb1 u.l2 v.l2
  have hb3 : asr32 c3 = 0 ∨ asr32 c3 = -1 := asr32_borrowColumn hb2 u.l3 v.l3
  have hb4 : asr32 c4 = 0 ∨ asr32 c4 = -1 := asr32_borrowColumn hb3 u.l4 v.l4
  refine ⟨asr32 c4, hb4, decide_eq_true_iff, ?_⟩
  have h0 : ((loColumn c0).toNat : Int) + asr32 c0 * 2 ^ 32 = 0 + u.l0.toNat - v.l0.toNat := loColumn_asr32 c0
  have h1 : ((loColumn c1).toNat : Int) + asr32 c1 * 2 ^ 32 = asr32 c0 + u.l1.toNat - v.l1.toNat := loColumn_asr32 c1
  have h2 : ((loColumn c2).toNat : Int) + asr32 c2 * 2 ^ 32 = asr32 c1 + u.l2.toNat - v.l2.toNat := loColumn_asr32 c2
  have h3 : ((loColumn c3).toNat : Int) + asr32 c3 * 2 ^ 32 = asr32 c2 + u.l3.toNat - v.l3.toNat := loColumn_asr32 c3
  have h4 : ((loColumn c4).toNat : Int) + asr32 c4 * 2 ^ 32 = asr32 c3 + u.l4.toNat - v.l4.toNat := loColumn_asr32 c4
  simp only [val5]
  push_cast
  linear_combination h0 + 2 ^ 32 * h1 + 2 ^ 64 * h2 + 2 ^ 96 * h3 + 2 ^ 128 * h4

/-- `neg` holds iff U < V: the five low words make a value from 0 to 2^160 − 1. -/
theorem sub5_neg_iff (u v : Limbs5) : (sub5 u v).2 = true ↔ val5 u < val5 v := by
  obtain ⟨b, hb, hneg, hsum⟩ := sub5_borrow u v
  have hlt := val5_lt (sub5 u v).1
  rw [hneg]
  omega

theorem val5_sub5 (u v : Limbs5) :
    (val5 (sub5 u v).1 : Int) = (val5 u : Int) - (val5 v : Int) + (if (sub5 u v).2 then 2 ^ 160 else 0) := by
  obtain ⟨b, hb, hneg, hsum⟩ := sub5_borrow u v
  simp only [hneg]
  split <;> omega

/-- Without a borrow `sub5` is the difference of the values. -/
theorem val5_sub5_of_le {u v : Limbs5} (h : val5 v ≤ val5 u) : val5 (sub5 u v).1 = val5 u - val5 v := by
  have hneg : ¬ (sub5 u v).2 = true := mt (sub5_neg_iff u v).mp (Nat.not_lt.mpr h)
  have hval := val5_sub5 u v
  rw [if_neg hneg] at hval
  omega

/-- Settles O49: the five columns' sum, and each column's range. -/
theorem borrowChainSubtracts : Obligations.BorrowChainSubtracts :=
  ⟨fun u v => ⟨val5_sub5 u v, sub5_neg_iff u v⟩, fun _ u v hb =>
    ⟨(borrowColumn_range hb u v).1, (borrowColumn_range hb u v).2, asr32_borrowColumn hb u v⟩⟩

end Sys2Proof.Machine

/-! Repeated subtraction (R123, R124) and the residue of phase 1 (R125). -/

namespace Sys2Proof.Machine

/-- Repeated subtraction, given trials enough, leaves the remainder after as many commits as the quotient says. -/
theorem subtractLoop_eq {v : Limbs5} (hv : val5 v ≠ 0) (fuel : Nat) (y : Limbs5) (hfuel : val5 y / val5 v < fuel) :
    subtractLoop v fuel y = some (limbs5 (val5 y % val5 v), val5 y / val5 v) := by
  induction fuel generalizing y with
  | zero => exact absurd hfuel (Nat.not_lt_zero _)
  | succ fuel ih =>
    by_cases hlt : val5 y < val5 v
    · have hneg : (sub5 y v).2 = true := (sub5_neg_iff y v).mpr hlt
      simp only [subtractLoop, if_pos hneg, Nat.mod_eq_of_lt hlt, Nat.div_eq_of_lt hlt, limbs5_val5]
    · have hle : val5 v ≤ val5 y := Nat.not_lt.mp hlt
      have hneg : ¬ (sub5 y v).2 = true := mt (sub5_neg_iff y v).mp hlt
      have hdiff : val5 (sub5 y v).1 = val5 y - val5 v := val5_sub5_of_le hle
      have hmod : val5 y % val5 v = val5 (sub5 y v).1 % val5 v := by rw [hdiff, Nat.mod_eq_sub_mod hle]
      have hdiv : val5 y / val5 v = val5 (sub5 y v).1 / val5 v + 1 := by
        rw [hdiff, Nat.div_eq_sub_div (Nat.pos_of_ne_zero hv) hle]
      rw [subtractLoop, if_neg hneg, hmod, hdiv]
      by_cases hzero : val5 (sub5 y v).1 = 0
      · have hlimbs : (sub5 y v).1 = limbs5 0 := by rw [← hzero, limbs5_val5]
        rw [if_pos hzero, hzero, Nat.zero_mod, Nat.zero_div, hlimbs]
      · rw [if_neg hzero, ih _ (by omega)]
        rfl

/-- A value below 2^96 leaves limbs 3 and 4 clear (R125). -/
theorem limbs5_high_eq_zero {v : Nat} (h : v < 2 ^ 96) : (limbs5 v).l3 = 0 ∧ (limbs5 v).l4 = 0 := by
  have h3 : v / 2 ^ 96 = 0 := Nat.div_eq_of_lt h
  have h4 : v / 2 ^ 128 = 0 := Nat.div_eq_of_lt (h.trans (by norm_num))
  simp only [limbs5, h3, h4]
  exact ⟨rfl, rfl⟩

/-- Settles O55: phase 1 leaves limbs_5(Y mod P), and Y mod P < P < 2^96. -/
theorem phaseOneResidueFitsThreeLimbs : Obligations.PhaseOneResidueFitsThreeLimbs := by
  intro fuel y p hp hfuel
  have hlt : val5 y % val3 p < val3 p := Nat.mod_lt _ (Nat.pos_of_ne_zero hp)
  have h96 : val3 p < 2 ^ 96 := val3_lt p
  have hval : val5 (limbs5 (val5 y % val3 p)) = val5 y % val3 p :=
    val5_limbs5 ((hlt.trans h96).trans (by norm_num))
  have hloop := subtractLoop_eq (v := zext3 p) (by rwa [val5_zext3]) fuel y (by rwa [val5_zext3])
  rw [val5_zext3] at hloop
  exact ⟨_, _, hloop, hval, hval.symm ▸ hlt, h96, limbs5_high_eq_zero (hlt.trans h96)⟩

end Sys2Proof.Machine

/-! The checks of REDUCE and HASH in flight (R127-R130, R151). -/

namespace Sys2Proof.Machine

/-- The limbs that the operation in flight reduces: YI for REDUCE, A·X + B for HASH (R120, R151); COMBINE reduces none. -/
def State.accumulator (s : State) : Op → Limbs5
  | .combine => limbs5 0
  | .reduce => s.operands.yi
  | .hash => combine s.operands.a s.operands.b s.operands.x

theorem val5_accumulator (s : State) (o : Op) : val5 (s.accumulator o) = s.toReduce o := by
  cases o with
  | combine => exact val5_limbs5 (by norm_num)
  | reduce => rfl
  | hash => exact val5_combine _ _ _

/-- What `reduce` answers for the operation in flight. -/
def State.reduction (s : State) (o : Op) : Reduction :=
  reduce s.kBound s.operands.p s.operands.m (s.accumulator o)

/-- REDUCE and HASH in flight end as `reduce` answers: in fault entry with its cause, or in DONE (R121, R151, R168,
R169). -/
theorem exec_reducing {s : State} {o : Op} (hbusy : s.fsm = .busy) (hop : s.op = some o) (ho : o ≠ .combine) :
    ∃ t, exec o.instr s = .next t ∧ (∀ c, s.reduction o = .fault c → t = raiseFault c s) ∧
      (∀ r, s.reduction o = .ok r → t.fsm = .done) := by
  cases o with
  | combine => exact absurd rfl ho
  | reduce =>
    refine ⟨_, operate_inFlight hbusy hop completeReduce, fun c hred => ?_, fun r hred => ?_⟩ <;>
      simp only [State.reduction, State.accumulator] at hred <;> simp only [completeReduce, hred, finish_fsm]
  | hash =>
    refine ⟨_, operate_inFlight hbusy hop completeHash, fun c hred => ?_, fun r hred => ?_⟩ <;>
      simp only [State.reduction, State.accumulator] at hred <;> simp only [completeHash, hred, finish_fsm]

/-- Fault entry writes fsm, CAUSE, the record of the operation in flight and, by draws, the results; it keeps the rest
(R204). -/
theorem raiseFault_frame (c : FaultCause) (s : State) :
    raiseFault c s =
      { s with fsm := .fault, cause := c.code, op := (raiseFault c s).op, results := (raiseFault c s).results,
               draws := (raiseFault c s).draws } := by
  cases c <;> rfl

/-- REDUCE and HASH in flight take the fault that `reduce` answers, and keep all that fault entry keeps. -/
theorem exec_reducing_fault {s : State} {o : Op} {c : FaultCause} (hbusy : s.fsm = .busy) (hop : s.op = some o)
    (ho : o ≠ .combine) (hred : s.reduction o = .fault c) :
    ∃ t, exec o.instr s = .next t ∧
      t = { s with fsm := .fault, cause := c.code, op := t.op, results := t.results, draws := t.draws } := by
  obtain ⟨t, hexec, hfault, -⟩ := exec_reducing hbusy hop ho
  obtain rfl : t = raiseFault c s := hfault c hred
  exact ⟨_, hexec, raiseFault_frame c s⟩

/-- Settles O23: P_ZERO is `reduce`'s first check. -/
theorem zeroPFaults : Obligations.ZeroPFaults := fun _ _ hbusy hop ho hp =>
  exec_reducing_fault hbusy hop ho (c := .pZero) (reduce_pZero hp)

/-- Settles O24: M_ZERO is `reduce`'s answer once P is nonzero. -/
theorem zeroMFaults : Obligations.ZeroMFaults := fun _ _ hbusy hop ho hp hm =>
  exec_reducing_fault hbusy hop ho (c := .mZero) (reduce_mZero hp hm)

/-- `reduce` answers K_BOUND only when there is a bound and Y reaches it (R129). -/
theorem exceedsBound_of_reduce_kBound {kb : Option IterBound} {p : Limbs3} {m : Word} {y : Limbs5}
    (h : reduce kb p m y = .fault .kBound) : exceedsBound kb (val3 p) (val5 y) = true := by
  by_contra hk
  by_cases hp : val3 p = 0
  · rw [reduce_pZero hp] at h
    cases h
  · by_cases hm : m.toNat = 0
    · rw [reduce_mZero hp hm] at h
      cases h
    · rw [reduce_ok hp hm (Bool.eq_false_of_not_eq_true hk)] at h
      cases h

/-- Only K_BOUND has code 4 (R29). -/
theorem eq_kBound_of_code {c : FaultCause} (h : c.code = 4) : c = .kBound := by
  revert h
  cases c <;> decide

/-- With P and m nonzero and K_BOUND = k, REDUCE and HASH fault with K_BOUND when Y ≥ k·P and end in DONE otherwise
(R129). -/
theorem exec_reducing_bounded {s : State} {o : Op} {b : IterBound} (hbusy : s.fsm = .busy) (hop : s.op = some o)
    (ho : o ≠ .combine) (hp : s.valP ≠ 0) (hm : s.valM ≠ 0) (hb : s.kBound = some b) :
    ∃ t, exec o.instr s = .next t ∧ (b.k * s.valP ≤ s.toReduce o → t = raiseFault .kBound s) ∧
      (¬ b.k * s.valP ≤ s.toReduce o → t.fsm = .done) := by
  obtain ⟨t, hexec, hfault, hdone⟩ := exec_reducing hbusy hop ho
  have hcheck : exceedsBound s.kBound s.valP (val5 (s.accumulator o)) = true ↔ b.k * s.valP ≤ s.toReduce o := by
    rw [hb, val5_accumulator]
    exact decide_eq_true_iff
  exact ⟨t, hexec, fun h => hfault _ (reduce_kBound hp hm (hcheck.mpr h)),
    fun h => hdone _ (reduce_ok hp hm (Bool.eq_false_of_not_eq_true (mt hcheck.mp h)))⟩

/-- With K_BOUND = NONE no operation in flight faults with K_BOUND (R129). -/
theorem exec_unbounded_cause {s : State} {o : Op} (hbusy : s.fsm = .busy) (hop : s.op = some o)
    (hnone : s.kBound = none) : ∃ t, exec o.instr s = .next t ∧ ¬ (t.fsm = .fault ∧ t.cause = 4) := by
  by_cases ho : o = .combine
  · subst ho
    exact ⟨_, exec_combine_inFlight hbusy hop, fun h => nomatch h.1⟩
  · obtain ⟨t, hexec, hfault, hdone⟩ := exec_reducing hbusy hop ho
    refine ⟨t, hexec, fun ⟨hf, hc⟩ => ?_⟩
    cases hred : s.reduction o with
    | ok r => exact nomatch (hdone r hred).symm.trans hf
    | fault c =>
      rw [hfault c hred, raiseFault_cause] at hc
      rw [eq_kBound_of_code hc] at hred
      have hcheck := exceedsBound_of_reduce_kBound hred
      rw [hnone] at hcheck
      exact nomatch hcheck

/-- Settles O25: Y ≥ k·P is floor(Y / P) ≥ k because P is nonzero; with NONE the check does not exist. -/
theorem iterationBoundFaults : Obligations.IterationBoundFaults := by
  refine ⟨fun s o b hbusy hop ho hp hm hb => ?_, fun _ _ => exec_unbounded_cause⟩
  obtain ⟨t, hexec, hfault, hdone⟩ := exec_reducing_bounded hbusy hop ho hp hm hb
  refine ⟨t, hexec, (Nat.le_div_iff_mul_le (Nat.pos_of_ne_zero hp)).symm, fun h => ?_, hdone⟩
  rw [hfault h]
  exact raiseFault_frame .kBound s

end Sys2Proof.Machine

/-! What an operation in flight ends in depends on the operand registers and K_BOUND alone (R153). -/

namespace Sys2Proof.Machine

/-- Fault-free, REDUCE and HASH in flight write the residue to R, HASH also A·X + B to YO0-YO4, and end in DONE (R168). -/
theorem exec_reducing_ok {s : State} {o : Op} {r : Word} (hbusy : s.fsm = .busy) (hop : s.op = some o)
    (ho : o ≠ .combine) (hred : s.reduction o = .ok r) :
    exec o.instr s = .next (finish (writeR r (if o = .hash then writeYo (s.accumulator o) s else s))) := by
  cases o with
  | combine => exact absurd rfl ho
  | reduce =>
    have hcomplete : completeReduce s = finish (writeR r s) := by
      simp only [State.reduction, State.accumulator] at hred
      simp only [completeReduce, hred]
    exact (operate_inFlight hbusy hop completeReduce).trans (congrArg _ hcomplete)
  | hash =>
    have hcomplete : completeHash s = finish (writeR r (writeYo (s.accumulator .hash) s)) := by
      simp only [State.reduction, State.accumulator] at hred
      simp only [completeHash, hred, State.accumulator]
    exact (operate_inFlight hbusy hop completeHash).trans (congrArg _ hcomplete)

/-- The value to be reduced is a function of the operand registers. -/
theorem accumulator_congr {s u : State} (hoperands : s.operands = u.operands) (o : Op) :
    s.accumulator o = u.accumulator o := by
  cases o <;> simp only [State.accumulator, hoperands]

/-- The reduction's answer is a function of the operand registers and K_BOUND. -/
theorem reduction_congr {s u : State} (hoperands : s.operands = u.operands) (hbound : s.kBound = u.kBound) (o : Op) :
    s.reduction o = u.reduction o := by
  simp only [State.reduction, hoperands, hbound, accumulator_congr hoperands o]

/-- Two ends of the operation `o` agree: in fsm, in DONE in the results that `o` writes, in FAULT in CAUSE. -/
def SameEnd (o : Op) (t v : State) : Prop :=
  t.fsm = v.fsm ∧
    (t.fsm = .done → (o ≠ .reduce → t.results.yo = v.results.yo) ∧ (o ≠ .combine → t.results.r = v.results.r)) ∧
    (t.fsm = .fault → t.cause = v.cause)

/-- Two completions of COMBINE agree when they write one accumulator. -/
theorem sameEnd_completeCombine {s u : State} (hoperands : s.operands = u.operands) :
    SameEnd .combine (completeCombine s) (completeCombine u) := by
  refine ⟨rfl, fun _ => ⟨fun _ => ?_, fun h => absurd rfl h⟩, nofun⟩
  simp only [completeCombine, finish_results, writeYo_results, hoperands]

/-- Two fault-free completions of REDUCE or HASH agree when they write one residue and, for HASH, one accumulator. -/
theorem sameEnd_reducing_ok {o : Op} (ho : o ≠ .combine) (r : Word) (y : Limbs5) (s u : State) :
    SameEnd o (finish (writeR r (if o = .hash then writeYo y s else s)))
      (finish (writeR r (if o = .hash then writeYo y u else u))) := by
  refine ⟨rfl, fun _ => ⟨fun hreduce => ?_, fun _ => rfl⟩, nofun⟩
  cases o with
  | combine => exact absurd rfl ho
  | reduce => exact absurd rfl hreduce
  | hash => rfl

/-- Two entries of one fault agree, whatever operation takes it. -/
theorem sameEnd_raiseFault (o : Op) (c : FaultCause) (s u : State) : SameEnd o (raiseFault c s) (raiseFault c u) := by
  refine ⟨?_, fun hdone => ?_, fun _ => ?_⟩
  · rw [raiseFault_fsm, raiseFault_fsm]
  · exact nomatch (raiseFault_fsm c s).symm.trans hdone
  · rw [raiseFault_cause, raiseFault_cause]

/-- REDUCE and HASH in flight end alike from equal operands and K_BOUND, since they reduce alike. -/
theorem exec_reducing_sameEnd {s u : State} {o : Op} (hs : s.fsm = .busy) (hu : u.fsm = .busy) (hsop : s.op = some o)
    (huop : u.op = some o) (ho : o ≠ .combine) (hoperands : s.operands = u.operands) (hbound : s.kBound = u.kBound) :
    ∃ t v, exec o.instr s = .next t ∧ exec o.instr u = .next v ∧ SameEnd o t v := by
  have hagree := reduction_congr hoperands hbound o
  cases hred : u.reduction o with
  | ok r =>
    refine ⟨_, _, exec_reducing_ok hs hsop ho (hagree.trans hred), exec_reducing_ok hu huop ho hred, ?_⟩
    rw [accumulator_congr hoperands]
    exact sameEnd_reducing_ok ho r _ s u
  | fault c =>
    obtain ⟨t, hexecS, hfaultS, -⟩ := exec_reducing hs hsop ho
    obtain ⟨v, hexecU, hfaultU, -⟩ := exec_reducing hu huop ho
    obtain rfl := hfaultS c (hagree.trans hred)
    obtain rfl := hfaultU c hred
    exact ⟨_, _, hexecS, hexecU, sameEnd_raiseFault o c s u⟩

/-- Settles O26: COMBINE always ends in DONE with A·X + B, REDUCE and HASH end as their reduction answers. -/
theorem outcomeDependsOnOperandsOnly : Obligations.OutcomeDependsOnOperandsOnly := by
  intro s u o hs hu hsop huop hoperands hbound
  by_cases ho : o = .combine
  · subst ho
    exact ⟨_, _, exec_combine_inFlight hs hsop, exec_combine_inFlight hu huop, sameEnd_completeCombine hoperands⟩
  · exact exec_reducing_sameEnd hs hu hsop huop ho hoperands hbound

end Sys2Proof.Machine

/-! CMD writes that start nothing: the refused ones (R161, R162) and the illegal ones (R164). -/

namespace Sys2Proof.Machine

/-- A CMD write outside IDLE and DONE is an access error, whatever its word (R161, R162). -/
theorem transact_writeOf_cmd_refused {s : State} (h : s.fsm = .busy ∨ s.fsm = .fault) (c : Word) :
    transact (writeOf .cmd c) s = .next (respondDraw true s) :=
  (transact_writeOf .cmd c s).trans (cmdWrite_refused ((not_ready_iff s).mpr h) c)

/-- Settles O28: the refusal's access error changes nothing but the answer and the draw it uses. -/
theorem commandsRefusedInBusyAndFault : Obligations.CommandsRefusedInBusyAndFault := fun c _ h =>
  transact_writeOf_cmd_refused h c

/-- STATUS after ILLEGAL_CMD's entry: FAULT with cause 1 (R164, R205). -/
theorem statusWord_raiseFault_illegalCmd (s : State) : statusWord (raiseFault .illegalCmd s) = 0x00000104 := by
  rw [statusWord_of (raiseFault_cause .illegalCmd s) (raiseFault_fsm .illegalCmd s)]
  decide

/-- After ILLEGAL_CMD's entry the results read as they were stored before it: its cause is none of R23's (R164). -/
theorem readReg_result_raiseFault_illegalCmd (q : ResultReg) (s : State) :
    readReg (.result q) (raiseFault .illegalCmd s) = ackRead (s.results.get q) (raiseFault .illegalCmd s) := by
  have hstored : ¬ ((raiseFault .illegalCmd s).fsm = .busy ∨
      ((raiseFault .illegalCmd s).fsm = .fault ∧ (raiseFault .illegalCmd s).cause ∈ [2, 3, 4, 5])) := by
    rw [raiseFault_fsm, raiseFault_cause]
    decide
  rw [readReg_result_stored hstored, raiseFault_illegalCmd_results]

/-- Settles O5: the next state is ILLEGAL_CMD's entry on the acknowledged state, and both keep operands and results. -/
theorem illegalCommandKeepsResults : Obligations.IllegalCommandKeepsResults := by
  intro c s w hw hready
  refine ⟨raiseFault .illegalCmd (respondDraw false s), transact_writeOf_cmd_illegal hready hw,
    statusWord_raiseFault_illegalCmd _, rfl, rfl, rfl, fun q => ?_⟩
  rw [transact_readOf, readReg_result_raiseFault_illegalCmd]
  rfl

end Sys2Proof.Machine

/-! STATUS after a fault entry (R205). -/

namespace Sys2Proof.Machine

/-- The word STATUS shows on entry to FAULT with cause `c`, whatever the state before it (R28, R205). -/
theorem statusWord_raiseFault (c : FaultCause) (s : State) :
    statusWord (raiseFault c s) = (0x00000004 : Word) ||| (c.code.setWidth 32 <<< 8) := by
  have hfault : bit (Fsm.fault = .fault) <<< 2 = 0x00000004 := by decide
  have hbusyDone : bit (Fsm.fault = .done) <<< 1 ||| bit (Fsm.fault = .busy) = 0#32 := by decide
  rw [statusWord_of (raiseFault_cause c s) (raiseFault_fsm c s), BitVec.or_assoc, hbusyDone, BitVec.or_zero, hfault,
    BitVec.or_comm]

/-- Settles O29: the four fields are STATUS's fields (R28) at FAULT with the code of `c`. -/
theorem faultStatusWord : Obligations.FaultStatusWord := by
  intro c s
  obtain ⟨hbusy, hdone, hfault, -, hcause, -⟩ := statusWord_fields (raiseFault c s)
  rw [raiseFault_fsm] at hbusy hdone hfault
  rw [raiseFault_cause] at hcause
  exact ⟨statusWord_raiseFault c s, hbusy, hdone, hfault, hcause⟩

end Sys2Proof.Machine

/-! Decoding and encoding are inverse (R54, R76, R80). -/

namespace Sys2Proof

/-- A well-formed instruction's word decodes to it at the register it is written to. -/
theorem decode_encode : ∀ i : Instr, Laws.ReadBack.Statement i
  | .nop => Laws.ReadBack.nop
  | .combine => Laws.ReadBack.combine
  | .reduce => Laws.ReadBack.reduce
  | .hash => Laws.ReadBack.hash
  | .sreset d => Laws.ReadBack.sreset d

/-- Decoding the byte lanes of a word is decoding the word (R54, R83). -/
theorem decodeBytes_lanes (port : WordPort) (w : Word) :
    decodeBytes port [lane w 0, lane w 1, lane w 2, lane w 3] = decode port w := by
  rw [decodeBytes, wordOfLanes_lanes]

/-- The fields RSV and OP determine a command word (R75). -/
theorem eq_of_cmdFields {c d : Word} (hrsv : cmdRsv c = cmdRsv d) (hop : cmdOp c = cmdOp d) : c = d :=
  BitVec.eq_of_toNat_eq (by rw [cmdWord_split c, cmdWord_split d, hrsv, hop])

/-- A command word that decodes is the word of the operation map (R76), and its instruction has no check. -/
theorem encode_of_decodeCmd {c : Word} {i : Instr} (h : decodeCmd c = .instr i) :
    i.wellFormed = true ∧ encode i = (.cmd, c) := by
  unfold decodeCmd at h
  split_ifs at h with hrsv hop hop hop hop
  all_goals
    obtain rfl := Decoded.instr.inj h
    exact ⟨rfl, congrArg (Prod.mk _) (eq_of_cmdFields (not_not.mp hrsv).symm hop.symm)⟩

/-- A CTRL word that decodes is SRESET's own word, with bit 0 set (R80). -/
theorem encode_of_decodeCtrl {d : Word} {i : Instr} (h : decodeCtrl d = .instr i) :
    i.wellFormed = true ∧ encode i = (.ctrl, d) := by
  unfold decodeCtrl at h
  split_ifs at h with hbit
  obtain rfl := Decoded.instr.inj h
  exact ⟨hbit, rfl⟩

/-- Settles O2: the four lanes put together are the encoder's word, which decodes to the instruction. -/
theorem encodeThenDecodeBytes : Obligations.EncodeThenDecodeBytes := fun i hwf =>
  (decodeBytes_lanes _ _).trans (decode_encode i hwf)

/-- Settles O3: one lemma per register a word can be written to. -/
theorem decodeThenEncode : Obligations.DecodeThenEncode
  | .cmd, _, _, h => encode_of_decodeCmd h
  | .ctrl, _, _, h => encode_of_decodeCtrl h

/-- Settles O1: each word is evaluated by the decoder. -/
theorem commandWordsDecode : Obligations.CommandWordsDecode := by
  unfold Obligations.CommandWordsDecode
  decide

end Sys2Proof

/-! What a step does to the core: its registers and control state, apart from the port, the answer, the index of free values
and the turns to come. -/

namespace Sys2Proof.Machine

/-- Two states hold the same registers, control state and configuration (R20). -/
structure SameCore (s t : State) : Prop where
  operands : t.operands = s.operands
  results : t.results = s.results
  fsm : t.fsm = s.fsm
  cause : t.cause = s.cause
  op : t.op = s.op
  kBound : t.kBound = s.kBound

/-- An instruction whose run in IDLE or DONE is an acceptance is not NOP. -/
theorem ne_nop_of_exec_accept {s : State} {i : Instr} {o : Op} (hready : s.ready = true)
    (h : exec i s = .next (accept o s)) : i ≠ .nop := by
  rintro rfl
  have hskip : exec .nop s = .next s := if_pos hready
  have hsame : (accept o s).fsm = s.fsm := congrArg State.fsm (Host.Outcome.next.inj (h.symm.trans hskip))
  rcases (ready_iff s).mp hready with hfsm | hfsm <;> cases hsame.trans hfsm

/-- What a CMD write in IDLE or DONE does, with the word it presents: NOP, an acceptance or ILLEGAL_CMD (R163-R165). -/
theorem cmdWrite_ready_cases {s : State} (hready : s.ready = true) (c : Word) :
    cmdWrite c s = .next (respondDraw false s) ∨
      (∃ o i, decodeCmd c = .instr i ∧ i ≠ .nop ∧ cmdWrite c s = .next (accept o (respondDraw false s))) ∨
      (∃ w, decodeCmd c = .reject w ∧ cmdWrite c s = .next (raiseFault .illegalCmd (respondDraw false s))) := by
  have hready' : (respondDraw false s).ready = true := hready
  cases hdecode : decodeCmd c with
  | reject w => exact .inr (.inr ⟨w, rfl, cmdWrite_illegal hready hdecode⟩)
  | instr i =>
    rw [cmdWrite_ready hready hdecode]
    rcases exec_ready hready' i with hexec | ⟨o, -, hexec⟩ | ⟨d, rfl, -, -⟩
    · exact .inl hexec
    · exact .inr (.inl ⟨o, i, rfl, ne_nop_of_exec_accept hready' hexec, hexec⟩)
    · exact absurd hdecode (decodeCmd_not_sreset _ _)

/-- The state a transaction leaves has its port and its turns, and an answer (R72). -/
theorem transact_keeps_port {t : Transaction} {s s' : State} (h : transact t s = .next s') :
    s'.port = s.port ∧ s'.inputs = s.inputs ∧ s'.response.isSome = true := by
  obtain ⟨u, hu, heffect⟩ := transact_effect t s
  obtain rfl : s' = u := Host.Outcome.next.inj (h.symm.trans hu)
  rcases heffect with ⟨q, d, rfl⟩ | ⟨o, -, -, -, rfl⟩ | ⟨o, -, -, -, rfl⟩ | ⟨-, -, -, rfl⟩ | ⟨-, -, -, rfl⟩ <;>
    exact ⟨rfl, rfl, rfl⟩

/-! Resets (R230, R231). -/

/-- The two sources of a reset: the pin, and an acknowledged SRESET (R230). -/
theorem resetsNext_iff (s : State) :
    s.resetsNext = true ↔ s.rstNext = true ∨
      ∃ t, s.acknowledges = some t ∧ t.we = true ∧ t.target = some .ctrl ∧ ctrlSreset t.wdata = true := by
  cases hack : s.acknowledges <;> simp [State.resetsNext, hack, and_assoc]

/-- A step that takes no transaction and no `rst` is no reset. -/
theorem resetsNext_eq_false {s : State} (hrst : s.rstNext = false) (hack : s.acknowledges = none) :
    s.resetsNext = false := by
  simp [State.resetsNext, hrst, hack]

/-- A completion is no reset: it is the core's turn, at no edge. -/
theorem resetsNext_of_completesNext {s : State} (h : s.completesNext = true) : s.resetsNext = false := by
  obtain ⟨hturn, -⟩ := (completesNext_iff s).mp h
  exact resetsNext_eq_false (by simp [State.rstNext, hturn]) (by simp [State.acknowledges, hturn])

/-- From every state a reset step goes on and leaves the core as reset leaves it, whatever was in flight (R231, R232). -/
theorem step_resets {s : State} (h : s.resetsNext = true) : ∃ t, step s = .next t ∧ SameCore (applyReset s) t := by
  rcases step_cases s with ⟨u, hstep, heffect⟩ | ⟨-, hcomplete, -⟩
  · refine ⟨u, hstep, ?_⟩
    cases heffect with
    | reset => exact ⟨rfl, rfl, rfl, rfl, rfl, rfl⟩
    | port p hrst hack => exact nomatch h.symm.trans (resetsNext_eq_false hrst hack)
    | rest hrst hack => exact nomatch h.symm.trans (resetsNext_eq_false hrst hack)
    | completion o u hrst hack => exact nomatch h.symm.trans (resetsNext_eq_false hrst hack)
    | transaction t u hrst hack hcomplete htransact =>
      obtain ⟨t', hack', hwe, htarget, hbit⟩ := ((resetsNext_iff s).mp h).resolve_left (by simp [hrst])
      obtain rfl : t = t' := Option.some.inj (hack.symm.trans hack')
      have hwrite : transact t (portFreed s) = .next (applyReset (respondDraw false (portFreed s))) :=
        (transact_write htarget hwe _).trans (ctrlWrite_reset hbit _)
      obtain rfl : u = applyReset (respondDraw false (portFreed s)) :=
        Host.Outcome.next.inj (htransact.symm.trans hwrite)
      exact ⟨rfl, rfl, rfl, rfl, rfl, rfl⟩
  · exact nomatch h.symm.trans (resetsNext_of_completesNext hcomplete)

/-! Completions (R167-R169). -/

/-- What `reduce` answers, check by check in the order of R130. -/
theorem reduce_cases (kb : Option IterBound) (p : Limbs3) (m : Word) (y : Limbs5) :
    (val3 p = 0 ∧ reduce kb p m y = .fault .pZero) ∨
      (val3 p ≠ 0 ∧ m.toNat = 0 ∧ reduce kb p m y = .fault .mZero) ∨
      (val3 p ≠ 0 ∧ m.toNat ≠ 0 ∧ exceedsBound kb (val3 p) (val5 y) = true ∧ reduce kb p m y = .fault .kBound) ∨
      (val3 p ≠ 0 ∧ m.toNat ≠ 0 ∧ exceedsBound kb (val3 p) (val5 y) = false ∧
        reduce kb p m y = .ok (lo32 (val5 y % val3 p % m.toNat))) := by
  by_cases hp : val3 p = 0
  · exact .inl ⟨hp, reduce_pZero hp⟩
  · by_cases hm : m.toNat = 0
    · exact .inr (.inl ⟨hp, hm, reduce_mZero hp hm⟩)
    · cases hk : exceedsBound kb (val3 p) (val5 y) with
      | true => exact .inr (.inr (.inl ⟨hp, hm, rfl, reduce_kBound hp hm hk⟩))
      | false => exact .inr (.inr (.inr ⟨hp, hm, rfl, reduce_ok hp hm hk⟩))

/-- `reduce` faults by one of its first three checks only: the assertion of R126 never fires. -/
theorem reduce_fault_mem {kb : Option IterBound} {p : Limbs3} {m : Word} {y : Limbs5} {c : FaultCause}
    (h : reduce kb p m y = .fault c) : c ∈ [.pZero, .mZero, .kBound] := by
  rcases reduce_cases kb p m y with ⟨-, heq⟩ | ⟨-, -, heq⟩ | ⟨-, -, -, heq⟩ | ⟨-, -, -, heq⟩ <;> rw [heq] at h <;> cases h
  all_goals decide

/-- The state that the operation `o`, in flight in `s`, completes in. -/
inductive Completed (s : State) : Op → State → Prop
  /-- COMBINE always ends in DONE. -/
  | combine : Completed s .combine (completeCombine s)
  /-- REDUCE and HASH fault-free (R168). -/
  | residue {o : Op} {r : Word} : o ≠ .combine → s.reduction o = .ok r →
      Completed s o (finish (writeR r (if o = .hash then writeYo (s.accumulator o) s else s)))
  /-- REDUCE and HASH with a check that applies (R169). -/
  | fault {o : Op} {c : FaultCause} : o ≠ .combine → s.reduction o = .fault c → Completed s o (raiseFault c s)

/-- The operation in flight completes. -/
theorem exec_completed {s : State} {o : Op} (hbusy : s.fsm = .busy) (hop : s.op = some o) :
    ∃ t, exec o.instr s = .next t ∧ Completed s o t := by
  by_cases ho : o = .combine
  · subst ho
    exact ⟨_, exec_combine_inFlight hbusy hop, .combine⟩
  · cases hred : s.reduction o with
    | ok r => exact ⟨_, exec_reducing_ok hbusy hop ho hred, .residue ho hred⟩
    | fault c =>
      obtain ⟨t, hexec, hfault, -⟩ := exec_reducing hbusy hop ho
      exact ⟨t, hexec, hfault c hred ▸ .fault ho hred⟩

namespace Completed

variable {s t : State} {o : Op}

/-- A completion writes neither an operand register nor the configuration, and leaves no operation in flight. -/
theorem keeps (h : Completed s o t) : t.operands = s.operands ∧ t.kBound = s.kBound ∧ t.op = none := by
  cases h with
  | combine => exact ⟨rfl, rfl, rfl⟩
  | residue => split <;> exact ⟨rfl, rfl, rfl⟩
  | fault => simp only [raiseFault_operands, raiseFault_kBound, raiseFault_op, and_self]

/-- A completion ends in DONE with CAUSE kept, or in FAULT with the cause of one of the three checks (R168, R169). -/
theorem done_or_fault (h : Completed s o t) :
    (t.fsm = .done ∧ t.cause = s.cause) ∨ (t.fsm = .fault ∧ t.cause ∈ [2, 3, 4]) := by
  cases h with
  | combine => exact .inl ⟨rfl, rfl⟩
  | residue => split <;> exact .inl ⟨rfl, rfl⟩
  | @fault o c _ hred =>
    refine .inr ⟨raiseFault_fsm c s, ?_⟩
    rw [raiseFault_cause]
    have hmem := reduce_fault_mem hred
    revert hmem
    cases c <;> decide

/-- A fault-free REDUCE keeps YO0-YO4 (R168). -/
theorem reduce_keeps_yo (h : Completed s .reduce t) (hdone : t.fsm = .done) : t.results.yo = s.results.yo := by
  cases h with
  | residue => rfl
  | fault => cases (raiseFault_fsm _ s).symm.trans hdone

/-- COMBINE keeps R (R168). -/
theorem combine_keeps_r (h : Completed s .combine t) : t.results.r = s.results.r := by
  cases h with
  | combine => rfl
  | residue ho => exact absurd rfl ho
  | fault ho => exact absurd rfl ho

end Completed

/-! What a step can do to the core, said once. -/

/-- What a step does to the core: with the state the core is left as, up to port, answer, free values and turns. -/
inductive CoreStep (s t : State) : Prop
  /-- A reset, by the pin or by SRESET (R230). -/
  | reset : s.resetsNext = true → SameCore (applyReset s) t → CoreStep s t
  /-- Nothing: no point of effect, a read, a refusal, a write that skips. -/
  | keep : s.resetsNext = false → s.completesNext = false → SameCore s t → CoreStep s t
  /-- An accepted operand write (R58). -/
  | load (o : OperandReg) (v : Word) : s.resetsNext = false → s.completesNext = false → s.operandNext = some (o, v) →
      s.fsm ≠ .busy → SameCore (setOperand o v s) t → CoreStep s t
  /-- An operation accepted (R163). -/
  | accept (o : Op) (c : Word) (i : Instr) : s.resetsNext = false → s.completesNext = false → s.ready = true →
      s.commandNext = some c → decodeCmd c = .instr i → i ≠ .nop → SameCore (accept o s) t → CoreStep s t
  /-- An illegal command (R164). -/
  | illegal (c : Word) (w : DecodeReject) : s.resetsNext = false → s.completesNext = false → s.ready = true →
      s.commandNext = some c → decodeCmd c = .reject w → SameCore (raiseFault .illegalCmd s) t → CoreStep s t
  /-- The completion of the operation in flight (R167). -/
  | completion (o : Op) : s.resetsNext = false → s.completesNext = true → s.op = some o →
      Completed (unanswered s) o t → CoreStep s t

/-- A step that takes a CMD write in IDLE or DONE. -/
theorem coreStep_of_command {s s' : State} {t : Transaction} (hreset : s.resetsNext = false)
    (hcomplete : s.completesNext = false) (hack : s.acknowledges = some t) (hwe : t.we = true)
    (htarget : t.target = some .cmd) (hready : (portFreed s).ready = true)
    (h : transact t (portFreed s) = .next s') : CoreStep s s' := by
  have hcommand : s.commandNext = some t.wdata := by simp [State.commandNext, hack, hwe, htarget]
  have hwrite : cmdWrite t.wdata (portFreed s) = .next s' := (transact_write htarget hwe _).symm.trans h
  rcases cmdWrite_ready_cases hready t.wdata with heq | ⟨o, i, hdecode, hi, heq⟩ | ⟨w, hdecode, heq⟩ <;>
    obtain rfl := Host.Outcome.next.inj (hwrite.symm.trans heq)
  · exact .keep hreset hcomplete ⟨rfl, rfl, rfl, rfl, rfl, rfl⟩
  · exact .accept o _ i hreset hcomplete hready hcommand hdecode hi ⟨rfl, rfl, rfl, rfl, rfl, rfl⟩
  · exact .illegal _ w hreset hcomplete hready hcommand hdecode ⟨rfl, rfl, rfl, rfl, rfl, rfl⟩

/-- A step that takes a transaction and is no reset. -/
theorem coreStep_of_transact {s s' : State} {t : Transaction} (hreset : s.resetsNext = false)
    (hcomplete : s.completesNext = false) (hack : s.acknowledges = some t)
    (h : transact t (portFreed s) = .next s') : CoreStep s s' := by
  obtain ⟨u, hu, heffect⟩ := transact_effect t (portFreed s)
  obtain rfl : s' = u := Host.Outcome.next.inj (h.symm.trans hu)
  rcases heffect with hanswered | ⟨o, hwe, htarget, hfsm, rfl⟩ | ⟨-, hwe, htarget, hready, -⟩ |
    ⟨hwe, htarget, hready, -⟩ | ⟨hwe, htarget, hbit, -⟩
  · obtain ⟨q, d, rfl⟩ := hanswered
    exact .keep hreset hcomplete ⟨rfl, rfl, rfl, rfl, rfl, rfl⟩
  · exact .load o t.wdata hreset hcomplete (by simp [State.operandNext, hack, htarget, hwe]) hfsm
      ⟨rfl, rfl, rfl, rfl, rfl, rfl⟩
  · exact coreStep_of_command hreset hcomplete hack hwe htarget hready h
  · exact coreStep_of_command hreset hcomplete hack hwe htarget hready h
  · exact nomatch hbit.symm.trans (resetsNext_false hreset hack hwe htarget)

/-- Every step does one of these. -/
theorem step_core {s t : State} (h : step s = .next t) : CoreStep s t := by
  cases hreset : s.resetsNext with
  | true =>
    obtain ⟨u, hu, hsame⟩ := step_resets hreset
    obtain rfl : t = u := Host.Outcome.next.inj (h.symm.trans hu)
    exact .reset hreset hsame
  | false =>
    cases step_effect h with
    | reset hrst => exact nomatch hrst.symm.trans (rstNext_false hreset)
    | port p _ _ hcomplete => exact .keep hreset hcomplete ⟨rfl, rfl, rfl, rfl, rfl, rfl⟩
    | rest _ _ hcomplete => exact .keep hreset hcomplete ⟨rfl, rfl, rfl, rfl, rfl, rfl⟩
    | transaction r t _ hack hcomplete htransact => exact coreStep_of_transact hreset hcomplete hack htransact
    | completion o t _ _ hcomplete hop hexec =>
      obtain ⟨-, hbusy⟩ := (completesNext_iff s).mp hcomplete
      obtain ⟨u, hu, hcompleted⟩ := exec_completed (s := unanswered s) hbusy hop
      obtain rfl : t = u := Host.Outcome.next.inj (hexec.symm.trans hu)
      exact .completion o hreset hcomplete hop hcompleted

end Sys2Proof.Machine

/-! The safety of every step (R20-R22, R29, R31). -/

namespace Sys2Proof.Machine

/-- The invariant is one of the core. -/
theorem SameCore.inv {s t : State} (h : SameCore s t) (hs : s.Inv) : t.Inv := by
  unfold State.Inv
  rw [h.fsm, h.cause, h.op]
  exact hs

/-- Reset brings the invariant about from every state. -/
theorem inv_applyReset (s : State) : (applyReset s).Inv := by
  simp only [State.Inv, applyReset_fsm, applyReset_cause, applyReset_op]
  decide

/-- A core with no operation recorded, outside BUSY and FAULT and with cause 0, is sound. -/
theorem inv_of_cause_zero {s : State} (hcause : s.cause = 0) (hfault : s.fsm ≠ .fault)
    (hop : s.op.isSome = true ↔ s.fsm = .busy) : s.Inv := by
  refine ⟨?_, ?_, hop⟩
  · simp [hcause, hfault]
  · simp [hcause]

/-- In FAULT with a cause of R29 and no operation recorded the core is sound. -/
theorem inv_of_fault {s : State} (hfault : s.fsm = .fault) (hzero : s.cause ≠ 0) (hle : s.cause.toNat ≤ 5)
    (hop : s.op = none) : s.Inv := by
  refine ⟨?_, hle, ?_⟩
  · simp only [hfault, hzero, ne_eq, not_false_eq_true]
  · simp [hfault, hop]

theorem inv_raiseFault (c : FaultCause) (s : State) : (raiseFault c s).Inv :=
  inv_of_fault (raiseFault_fsm c s) (by rw [raiseFault_cause]; exact faultCode_ne_zero c)
    (by rw [raiseFault_cause]; exact faultCode_le c) (raiseFault_op c s)

/-- Acceptance keeps the invariant: CAUSE is 0 in IDLE and DONE. -/
theorem inv_accept {s : State} (hs : s.Inv) (hready : s.ready = true) (o : Op) : (accept o s).Inv := by
  have hfault : s.fsm ≠ .fault := by
    rcases (ready_iff s).mp hready with h | h <;> simp [h]
  exact inv_of_cause_zero (hs.cause_eq_zero hfault) (by simp) (by simp)

/-- A completion keeps the invariant: CAUSE is 0 in BUSY. -/
theorem Completed.inv {s t : State} {o : Op} (h : Completed s o t) (hs : s.Inv) (hbusy : s.fsm = .busy) : t.Inv := by
  obtain ⟨-, -, hop⟩ := h.keeps
  rcases h.done_or_fault with ⟨hdone, hcause⟩ | ⟨hfault, hcause⟩
  · exact inv_of_cause_zero (hcause.trans (hs.cause_eq_zero (by simp [hbusy]))) (by simp [hdone]) (by simp [hdone, hop])
  · obtain ⟨hzero, hle⟩ : t.cause ≠ 0 ∧ t.cause.toNat ≤ 5 := by
      generalize t.cause = c at hcause
      revert c
      decide
    exact inv_of_fault hfault hzero hle hop

/-- Settles O33: each kind of step keeps the invariant. -/
theorem everyStepKeepsControlState : Obligations.EveryStepKeepsControlState := by
  intro s t hs hstep
  cases step_core hstep with
  | reset _ hsame => exact hsame.inv (inv_applyReset s)
  | keep _ _ hsame => exact hsame.inv hs
  | load o v _ _ _ _ hsame => exact hsame.inv hs
  | accept o c i _ _ hready _ _ _ hsame => exact hsame.inv (inv_accept hs hready o)
  | illegal c w _ _ _ _ _ hsame => exact hsame.inv (inv_raiseFault _ s)
  | completion o _ hcomplete _ hcompleted =>
    obtain ⟨-, hbusy⟩ := (completesNext_iff s).mp hcomplete
    exact hcompleted.inv (s := unanswered s) hs hbusy

/-- Settles O32: reset brings the invariant about. -/
theorem controlStateSoundAtReset : Obligations.ControlStateSoundAtReset := inv_applyReset State.reset

/-- Settles O36: of the steps that are no reset, only an accepted operand write changes the operands. -/
theorem onlyHostWritesChangeOperands : Obligations.OnlyHostWritesChangeOperands := by
  intro s t hstep hreset
  cases step_core hstep with
  | reset hreset' _ => exact nomatch hreset'.symm.trans hreset
  | keep _ _ hsame => exact .inl hsame.operands
  | load o v _ _ hnext hbusy hsame => exact .inr ⟨o, v, hnext, hbusy, hsame.operands⟩
  | accept o c i _ _ _ _ _ _ hsame => exact .inl hsame.operands
  | illegal c w _ _ _ _ _ hsame => exact .inl hsame.operands
  | completion o _ _ _ hcompleted => exact .inl hcompleted.keeps.1

/-- Settles O38: of the steps that are no reset only a completion changes the results; which of them, `Completed` says. -/
theorem onlyCompletionChangesResults : Obligations.OnlyCompletionChangesResults := by
  intro s t hstep hreset
  have hkept (h : t.results = s.results) : (s.completesNext = false → t.results = s.results) ∧
      (t.fsm = .done → s.op = some .reduce → t.results.yo = s.results.yo) ∧
      (t.fsm = .done → s.op = some .combine → t.results.r = s.results.r) := by
    simp only [h, implies_true, and_self]
  cases step_core hstep with
  | reset hreset' _ => exact nomatch hreset'.symm.trans hreset
  | keep _ _ hsame => exact hkept hsame.results
  | load o v _ _ _ _ hsame => exact hkept hsame.results
  | accept o c i _ _ _ _ _ _ hsame => exact hkept hsame.results
  | illegal c w _ _ _ _ _ hsame => exact hkept hsame.results
  | completion o _ hcomplete hop hcompleted =>
    refine ⟨fun hno => (nomatch hcomplete.symm.trans hno), fun hdone hreduce => ?_, fun _ hcombine => ?_⟩
    · obtain rfl : o = .reduce := Option.some.inj (hop.symm.trans hreduce)
      exact hcompleted.reduce_keeps_yo hdone
    · obtain rfl : o = .combine := Option.some.inj (hop.symm.trans hcombine)
      exact hcompleted.combine_keeps_r

/-- Settles O39: each kind of step is one of R31's transitions, or stays where it is. -/
theorem stateMachineTransitions : Obligations.StateMachineTransitions := by
  intro s t hstep
  cases step_core hstep with
  | reset hreset hsame => exact .inl ⟨hreset, hsame.fsm⟩
  | keep hreset _ hsame => exact .inr (.inl ⟨hreset, hsame.fsm⟩)
  | load o v hreset _ _ _ hsame => exact .inr (.inl ⟨hreset, hsame.fsm⟩)
  | accept o c i hreset _ hready hcommand hdecode hi hsame =>
    exact .inr (.inr (.inl ⟨hreset, (ready_iff s).mp hready, hsame.fsm, c, i, hcommand, hdecode, hi⟩))
  | illegal c w hreset _ hready hcommand hdecode hsame =>
    exact .inr (.inr (.inr (.inl
      ⟨hreset, (ready_iff s).mp hready, hsame.fsm, hsame.cause, c, w, hcommand, hdecode⟩)))
  | completion o _ hcomplete _ hcompleted =>
    obtain ⟨-, hbusy⟩ := (completesNext_iff s).mp hcomplete
    exact .inr (.inr (.inr (.inr ⟨hcomplete, hbusy, hcompleted.done_or_fault.imp And.left id⟩)))

/-- Settles O17: a reset step leaves the core as `applyReset` does, and STATUS is made of fsm and CAUSE alone. -/
theorem bothResetsHaveTheSameEffect : Obligations.BothResetsHaveTheSameEffect := by
  intro s hreset
  obtain ⟨t, hstep, hsame⟩ := step_resets hreset
  refine ⟨t, hstep, hsame.operands, hsame.results, hsame.fsm, hsame.cause, hsame.op, ?_⟩
  have hstatus := statusWord_of (c := 0) (f := .idle) hsame.cause hsame.fsm
  exact hstatus.trans (by decide)

/-- In FAULT a step that is no reset keeps fsm, CAUSE and the results (R206, R207). -/
theorem step_keeps_fault {s t : State} (hfault : s.fsm = .fault) (hreset : s.resetsNext = false)
    (hstep : step s = .next t) : t.fsm = .fault ∧ t.cause = s.cause ∧ t.results = s.results := by
  have hready : ¬ s.ready = true := fun h => by
    rcases (ready_iff s).mp h with h | h <;> exact nomatch hfault.symm.trans h
  cases step_core hstep with
  | reset hreset' _ => exact nomatch hreset'.symm.trans hreset
  | keep _ _ hsame => exact ⟨hsame.fsm.trans hfault, hsame.cause, hsame.results⟩
  | load o v _ _ _ _ hsame => exact ⟨hsame.fsm.trans hfault, hsame.cause, hsame.results⟩
  | accept o c i _ _ h => exact absurd h hready
  | illegal c w _ _ h => exact absurd h hready
  | completion o _ hcomplete =>
    obtain ⟨-, hbusy⟩ := (completesNext_iff s).mp hcomplete
    exact nomatch hfault.symm.trans hbusy

/-- Settles O31: a step from FAULT keeps it, or it is a reset. -/
theorem faultIsStickyUntilReset : Obligations.FaultIsStickyUntilReset := by
  refine fun s t hfault hstep => ⟨fun hreset => step_keeps_fault hfault hreset hstep, fun hreset => ?_⟩
  obtain ⟨u, hu, hsame⟩ := step_resets hreset
  obtain rfl : t = u := Host.Outcome.next.inj (hstep.symm.trans hu)
  exact ⟨hsame.fsm, hsame.cause⟩

/-- Settles O34: the model's own stop needs BUSY with no operation recorded, which the invariant excludes. -/
theorem soundStatesStepOn : Obligations.SoundStatesStepOn := by
  intro s hs
  obtain ⟨-, -, hop⟩ := hs
  rcases step_cases s with ⟨t, hstep, -⟩ | ⟨-, hcomplete, hnone⟩
  · exact ⟨t, hstep⟩
  · obtain ⟨-, hbusy⟩ := (completesNext_iff s).mp hcomplete
    rw [hnone] at hop
    exact nomatch hop.mpr hbusy

/-- Settles O35: reset, fault entry and every other operation of a step keep the configuration. -/
theorem configurationIsConstant : Obligations.ConfigurationIsConstant := by
  intro s t hstep
  cases step_core hstep with
  | reset _ hsame => exact hsame.kBound
  | keep _ _ hsame => exact hsame.kBound
  | load o v _ _ _ _ hsame => exact hsame.kBound
  | accept o c i _ _ _ _ _ _ hsame => exact hsame.kBound
  | illegal c w _ _ _ _ _ hsame => exact hsame.kBound
  | completion o _ _ _ hcompleted => exact hcompleted.keeps.2.1

/-- Settles O37: a changed operand would be a host's write not while BUSY. -/
theorem operandsStableWhileBusy : Obligations.OperandsStableWhileBusy := by
  intro s t hbusy hreset hstep
  rcases onlyHostWritesChangeOperands s t hstep hreset with hkept | ⟨o, v, -, hnot, -⟩
  · exact hkept
  · exact absurd hbusy hnot

/-- A step that completes leaves what the operation in flight completes in (R167). -/
theorem step_completed {s t : State} (hcomplete : s.completesNext = true) (hstep : step s = .next t) :
    ∃ o, s.op = some o ∧ Completed (unanswered s) o t := by
  cases step_core hstep with
  | completion o _ _ hop hcompleted => exact ⟨o, hop, hcompleted⟩
  | reset hreset => exact nomatch hreset.symm.trans (resetsNext_of_completesNext hcomplete)
  | keep _ h => exact nomatch hcomplete.symm.trans h
  | load o v _ h => exact nomatch hcomplete.symm.trans h
  | accept o c i _ h => exact nomatch hcomplete.symm.trans h
  | illegal c w _ h => exact nomatch hcomplete.symm.trans h

/-- Settles O40: a completion ends in DONE or FAULT, and STATUS shows which (R28). -/
theorem completionShowsInStatus : Obligations.CompletionShowsInStatus := by
  intro s t _ hcomplete hstep
  obtain ⟨o, -, hcompleted⟩ := step_completed hcomplete hstep
  obtain ⟨hbusy, hdone, hfault, -⟩ := statusWord_fields t
  rw [hbusy, hdone, hfault]
  rcases hcompleted.done_or_fault with ⟨h, -⟩ | ⟨h, -⟩ <;> rw [h] <;> decide

end Sys2Proof.Machine

/-! The register space: refused and accepted accesses (R55-R58, R60). -/

namespace Sys2Proof.Machine

/-- A misaligned, sub-word or unmapped access reaches no register (R55). -/
theorem target_eq_none {t : Transaction}
    (h : t.addr.extractLsb' 0 2 ≠ 0 ∨ t.be ≠ 0b1111 ∨ ∀ n : RegName, t.addr ≠ n.offset) : t.target = none := by
  cases htarget : t.target with
  | none => rfl
  | some n =>
    obtain ⟨haddr, hbe⟩ := target_eq_some.mp htarget
    rcases h with halign | hbe' | hunmapped
    · exact absurd (haddr ▸ offset_aligned n) halign
    · exact absurd hbe hbe'
    · exact absurd haddr (hunmapped n)

/-- Settles O7: an access that reaches no register is an access error (R56). -/
theorem illegalAccessHasNoEffect : Obligations.IllegalAccessHasNoEffect := fun _ s h =>
  transact_illegal (target_eq_none h) s

/-- A read ends, and only answers (R60). -/
theorem transact_read_answered {t : Transaction} (h : t.we = false) (s : State) :
    ∃ s', transact t s = .next s' ∧ Answered s s' := by
  cases htarget : t.target with
  | none => exact ⟨_, transact_illegal htarget s, answered_respondDraw _ _⟩
  | some n => exact ⟨_, transact_read htarget h s, readReg_answered n s⟩

/-- Settles O9: a read that reaches a register, and one that reaches none, only answer. -/
theorem readsHaveNoSideEffect : Obligations.ReadsHaveNoSideEffect := by
  intro t s hread
  obtain ⟨s', htransact, q, d, rfl⟩ := transact_read_answered hread s
  exact ⟨q, d, htransact⟩

/-- Outside BUSY an operand write sets the register and is answered with `err = 0` (R58). -/
theorem transact_operand_accepted {s : State} (h : s.fsm ≠ .busy) (o : OperandReg) (v : Word) :
    transact (writeOf (.operand o) v) s = .next (respondDraw false (setOperand o v s)) := by
  rw [transact_operand, operandWrite_accepted h]

/-- Settles O10: the named register reads as the word, the others as before; nothing else is written. -/
theorem operandWriteWritesOneRegister : Obligations.OperandWriteWritesOneRegister := fun o v s hbusy =>
  ⟨_, transact_operand_accepted hbusy o v, get_set_same s.operands o v, fun _ ho => get_set_other s.operands v ho, rfl⟩

/-- Settles O11: while BUSY the write is an access error. -/
theorem operandWriteRefusedWhileBusy : Obligations.OperandWriteRefusedWhileBusy := fun o v s hbusy =>
  (transact_operand o v s).trans (congrArg _ (operandWrite_refused hbusy o v))

/-- Settles O12: no case of a legal write writes STATUS or a result register. -/
theorem readOnlyRegistersRefuseWrites : Obligations.ReadOnlyRegistersRefuseWrites := by
  rintro n v s (rfl | ⟨q, rfl⟩)
  · exact transact_writeOf_status v s
  · exact transact_writeOf (.result q) v s

/-- Every register of the map reads as zero at reset (R34). -/
theorem readReg_reset (n : RegName) : readReg n State.reset = ackRead 0 State.reset := by
  cases n with
  | cmd => rfl
  | ctrl => rfl
  | status => exact congrArg (ackRead · State.reset) statusWord_reset
  | operand o => cases o <;> rfl
  | result q =>
    rw [readReg_result_stored (by decide)]
    cases q <;> rfl

/-- Settles O14: the control state is read off `State.reset`, each register by a read of it. -/
theorem resetRegistersReadZero : Obligations.ResetRegistersReadZero :=
  ⟨rfl, rfl, rfl, fun n => (transact_readOf n _).trans (congrArg _ (readReg_reset n))⟩

/-! After an operation fault the results read as draws (R23, R204). -/

/-- The cause codes of R23 are those of the operation faults. -/
theorem code_mem_of_ne_illegalCmd {c : FaultCause} (h : c ≠ .illegalCmd) : c.code ∈ [(2 : BitVec 4), 3, 4, 5] := by
  cases c with
  | illegalCmd => exact absurd rfl h
  | pZero => decide
  | mZero => decide
  | kBound => decide
  | assertHighLimbs => decide

/-- Settles O30: FAULT with such a cause is R23's second condition. -/
theorem operationFaultUnspecifiesResults : Obligations.OperationFaultUnspecifiesResults := by
  intro c s hc
  refine ⟨raiseFault_operands c s, raiseFault_fsm c s, raiseFault_cause c s, fun q => ?_⟩
  have hdraw : (raiseFault c s).fsm = .fault ∧ (raiseFault c s).cause ∈ [2, 3, 4, 5] := by
    rw [raiseFault_fsm, raiseFault_cause]
    exact ⟨rfl, code_mem_of_ne_illegalCmd hc⟩
  rw [transact_readOf, readReg_result_drawn (.inr hdraw)]
  rfl

/-! The command words: NOP, acceptance and SRESET (R163, R165, R166). -/

/-- Settles O18: NOP skips when the core is ready. -/
theorem nopChangesNothing : Obligations.NopChangesNothing := fun s hready => if_pos ((ready_iff s).mpr hready)

/-- In IDLE and DONE each operation is accepted. -/
theorem exec_accepts {s : State} (h : s.ready = true) (o : Op) : exec o.instr s = .next (accept o s) := by
  cases o <;> exact operate_ready h _ _

/-- The word of an operation, written to CMD, is decoded as that operation (R76). -/
theorem decodeCmd_encode_op (o : Op) : decodeCmd (encode o.instr).2 = .instr o.instr := by
  cases o <;> decide

/-- Settles O19: `exec` accepts the operation, and the CMD write of its word runs it on the acknowledged state. -/
theorem operationsAreAccepted : Obligations.OperationsAreAccepted := by
  intro o s h
  have hready : s.ready = true := (ready_iff s).mpr h
  refine ⟨exec_accepts hready o, ?_⟩
  rw [transact_writeOf, writeReg, cmdWrite_ready hready (decodeCmd_encode_op o)]
  exact exec_accepts (s := respondDraw false s) hready o

/-- Settles O16: bit 0 decides between reset and `skip`, as a term and as the CTRL write. -/
theorem softResetResult : Obligations.SoftResetResult := by
  intro d s
  refine ⟨fun hset => if_pos hset, fun hclear => if_neg (Bool.eq_false_iff.mp hclear), fun hset => ?_, fun hclear => ?_⟩
  · refine ⟨applyReset (respondDraw false s), (transact_writeOf .ctrl d s).trans (ctrlWrite_reset hset s), ?_, rfl⟩
    exact (statusWord_of (c := 0) (f := .idle) rfl rfl).trans (by decide)
  · exact (transact_writeOf .ctrl d s).trans (ctrlWrite_skip hclear s)

end Sys2Proof.Machine

/-! Steps at the pins: the handshake, the acknowledged transaction and the core's turn (R70-R73, R160, R167). -/

namespace Sys2Proof.Machine

/-- A listed edge is the next turn. -/
theorem step_edge {s : State} {p : Pins} {ack : Bool} {rest : List Turn} (h : s.inputs = .edge p ack :: rest) :
    step s = clockEdge p ack { s with inputs := rest } := by
  rw [step, runTurn, h]
  rfl

/-- Settles O15: `rst` is sampled before anything else of the edge. -/
theorem hardwareResetFromEveryState : Obligations.HardwareResetFromEveryState := by
  intro s p ack rest hrst hinputs
  rw [step_edge hinputs, clockEdge, if_pos hrst]
  rfl

/-- An edge with `rst = 0` while no transaction is in progress (R71). -/
theorem clockEdge_idle {p : Pins} {s : State} (hrst : p.rst = false) (hport : s.port = .idle) (ack : Bool) :
    clockEdge p ack s = .next (quietEdge (if p.req then awaitAck ack p.transaction else .idle) s) := by
  simp only [clockEdge, hrst, hport, Bool.false_eq_true, if_false]

/-- An edge with `rst = 0` while a transaction waits (R71). -/
theorem clockEdge_waiting {p : Pins} {s : State} {t : Transaction} (hrst : p.rst = false) (hport : s.port = .waiting t)
    (ack : Bool) : clockEdge p ack s = .next (quietEdge (awaitAck ack t) s) := by
  simp only [clockEdge, hrst, hport, Bool.false_eq_true, if_false]

/-- An edge with `rst = 0` that ends an ack cycle (R72). -/
theorem clockEdge_acking {p : Pins} {s : State} {t : Transaction} (hrst : p.rst = false) (hport : s.port = .acking t)
    (ack : Bool) : clockEdge p ack s = transact t { s with port := .idle } := by
  simp only [clockEdge, hrst, hport, Bool.false_eq_true, if_false]

/-- Settles O42: one lemma per state of the port. -/
theorem handshakeAtAnEdge : Obligations.HandshakeAtAnEdge := by
  intro s p ack rest hrst hinputs
  rw [step_edge hinputs]
  refine ⟨fun hport hreq => ?_, fun hport hreq => ?_, fun t hport => ?_, fun t hport => ?_⟩
  · rw [clockEdge_idle (s := { s with inputs := rest }) hrst hport, hreq]
    simp only [quietEdge, Bool.false_eq_true, if_false, hport]
  · rw [clockEdge_idle (s := { s with inputs := rest }) hrst hport, hreq]
    rfl
  · exact clockEdge_waiting (s := { s with inputs := rest }) hrst hport ack
  · obtain ⟨s', hs', -⟩ := transact_effect t { s with inputs := rest, port := .idle }
    have hedge : clockEdge p ack { s with inputs := rest } = transact t { s with inputs := rest, port := .idle } :=
      clockEdge_acking (s := { s with inputs := rest }) hrst hport ack
    obtain ⟨hidle, -, hresponse⟩ := transact_keeps_port hs'
    exact ⟨hedge, s', hedge.trans hs', hidle, hresponse⟩

/-- An acknowledged transaction takes effect on the state with the turn taken and the port free (R72). -/
theorem step_acknowledges {s : State} {t : Transaction} (h : s.acknowledges = some t) :
    step s = transact t (portFreed s) := by
  rw [step_eq]
  unfold State.acknowledges at h
  split at h
  · split_ifs at h with hrst
    obtain rfl := Option.some.inj h
    rename_i p ack t hturn hport
    rw [hturn]
    exact clockEdge_acking (s := popTurn s) (Bool.eq_false_iff.mpr hrst) hport ack
  · cases h
  · cases h
  · cases h

/-- Settles O41: a CMD or CTRL write runs the decoded instruction on the acknowledged state, the core's turn the operation
in flight. -/
theorem stepRunsTheDecodedInstruction : Obligations.StepRunsTheDecodedInstruction := by
  intro s
  refine ⟨fun t i hack hwe htarget hready hdecode => ?_, fun t i hack hwe htarget hdecode => ?_, fun o hcomplete hop => ?_⟩
  · rw [step_acknowledges hack, transact_write htarget hwe]
    exact cmdWrite_ready ((ready_iff (portFreed s)).mpr hready) hdecode
  · rw [step_acknowledges hack, transact_write htarget hwe, writeReg, ctrlWrite, hdecode]
    rfl
  · obtain ⟨hturn, hbusy⟩ := (completesNext_iff s).mp hcomplete
    rw [step_eq, hturn]
    exact completion_inFlight (s := popTurn s) hbusy hop

/-- In an ack cycle with `rst = 0` the pins show the answer of the transaction (R70, R73). -/
theorem outputs_acking {s : State} {t : Transaction} (hport : s.port = .acking t) :
    ∃ s' q, transact t s = .next s' ∧ s'.response = some q ∧
      outputs false s = { ack := true, err := q.err, rdata := q.rdata } := by
  obtain ⟨s', hs', -⟩ := transact_effect t s
  obtain ⟨-, -, hresponse⟩ := transact_keeps_port hs'
  obtain ⟨q, hq⟩ := Option.isSome_iff_exists.mp hresponse
  exact ⟨s', q, hs', hq, by simp only [outputs, hport, hs', hq, Bool.false_eq_true, if_false]⟩

/-- Settles O43: outside an ack cycle, and under `rst`, the pins are the quiet ones. -/
theorem ackPin : Obligations.AckPin := by
  refine fun rst s => ⟨?_, fun t hport => outputs_acking hport⟩
  cases rst with
  | true => simp [outputs, quietOutputs]
  | false =>
    cases hport : s.port with
    | idle => simp [outputs, quietOutputs, hport]
    | waiting t => simp [outputs, quietOutputs, hport]
    | acking t =>
      obtain ⟨s', q, -, -, hout⟩ := outputs_acking hport
      simp [hout]

/-! The model's default schedule (log entry 5). -/

/-- The steps the default schedule takes to free the port. -/
def Port.stepsToIdle : Port → Nat
  | .idle => 0
  | .acking _ => 1
  | .waiting _ => 2

/-- Soundness, an operation in flight and no turn listed: where the default schedule is at work. -/
structure OnDefaultSchedule (s : State) : Prop where
  inv : s.Inv
  busy : s.fsm = .busy
  unlisted : s.inputs = []

/-- With the port free the default turn is the completion, which ends the operation. -/
theorem default_step_idle {s : State} (h : OnDefaultSchedule s) (hport : s.port = .idle) :
    ∃ t, step s = .next t ∧ t.fsm ≠ .busy := by
  have hcomplete : s.completesNext = true :=
    (completesNext_iff s).mpr ⟨by simp [State.nextTurn, h.unlisted, defaultTurn, hport, h.busy], h.busy⟩
  obtain ⟨t, hstep⟩ := soundStatesStepOn s h.inv
  obtain ⟨o, -, hcompleted⟩ := step_completed hcomplete hstep
  refine ⟨t, hstep, ?_⟩
  rcases hcompleted.done_or_fault with ⟨hfsm, -⟩ | ⟨hfsm, -⟩ <;> simp [hfsm]

/-- With a transaction in progress the default turn is a quiet edge, which brings the port nearer to free. -/
theorem default_step_inProgress {s : State} (h : OnDefaultSchedule s) (hport : s.port ≠ .idle) :
    ∃ t, step s = .next t ∧ t.inputs = [] ∧ t.port.stepsToIdle < s.port.stepsToIdle := by
  have hturn : s.nextTurn = .edge quietPins true := by simp [State.nextTurn, h.unlisted, defaultTurn, hport]
  have htail : (popTurn s).inputs = [] := by simp [h.unlisted]
  rw [step_eq, hturn, takeTurn]
  cases hp : s.port with
  | idle => exact absurd hp hport
  | waiting t => exact ⟨_, clockEdge_waiting (s := popTurn s) rfl hp true, htail, Nat.lt_succ_self 1⟩
  | acking t =>
    obtain ⟨u, hu, -⟩ := transact_effect t (portFreed s)
    obtain ⟨hidle, hinputs, -⟩ := transact_keeps_port hu
    refine ⟨u, (clockEdge_acking (s := popTurn s) rfl hp true).trans hu, hinputs.trans htail, ?_⟩
    rw [hidle]
    exact Nat.lt_succ_self 0

/-- The operation in flight ends in one step more than the port takes to be free. -/
theorem operation_ends {s : State} (h : OnDefaultSchedule s) :
    ∃ k, k ≤ s.port.stepsToIdle + 1 ∧ ∃ t : State, Sys2Proof.core.run k s = .next t ∧ t.fsm ≠ .busy := by
  by_cases hport : s.port = .idle
  · obtain ⟨t, hstep, ht⟩ := default_step_idle h hport
    exact ⟨1, Nat.le_add_left _ _, t, run_next hstep 0, ht⟩
  · obtain ⟨u, hstep, hinputs, hnearer⟩ := default_step_inProgress h hport
    by_cases hbusy : u.fsm = .busy
    · have hu : OnDefaultSchedule u := ⟨everyStepKeepsControlState s u h.inv hstep, hbusy, hinputs⟩
      obtain ⟨k, hk, t, hrun, ht⟩ := operation_ends hu
      exact ⟨k + 1, by omega, t, (run_next hstep k).trans hrun, ht⟩
    · exact ⟨1, Nat.le_add_left _ _, u, run_next hstep 0, hbusy⟩
termination_by s.port.stepsToIdle

/-- Settles O44: the port takes at most two steps to be free. -/
theorem operationEndsWhenNoTurnIsListed : Obligations.OperationEndsWhenNoTurnIsListed := by
  intro s hs hbusy hinputs
  have hport : s.port.stepsToIdle ≤ 2 := by
    cases s.port <;> simp [Port.stepsToIdle]
  obtain ⟨k, hk, hends⟩ := operation_ends ⟨hs, hbusy, hinputs⟩
  exact ⟨k, by omega, hends⟩

/-! The `wait` loop (R84, R85). -/

/-- The mask of `wait` picks BUSY out of STATUS (R28). -/
theorem statusWord_and_one (s : State) : statusWord s &&& 1 ≠ 0 ↔ s.fsm = .busy := by
  rw [statusWord_of rfl rfl]
  generalize s.cause = c
  revert c
  cases s.fsm <;> decide

/-- Settles O59: the read of STATUS answers, and `bnz` goes back to line 0 when BUSY is set in the answer. -/
theorem waitPollsBusy : Obligations.WaitPollsBusy := by
  intro s
  have hline : Pseudo.wait.expand[1]? = some (.bnz .status 1 (.back 1)) := rfl
  have hread : transact (readOf .status) s = .next (ackRead (statusWord s) s) := transact_readOf .status s
  have hlabel : resolve Pseudo.wait.expand 1 (.back 1) = some 0 := by decide
  simp only [hostStep, hline, HostStmt.transaction, hread, ackRead_response, nextPos, hlabel, statusWord_and_one, true_and,
    Option.getD_some]
  rfl

end Sys2Proof.Machine

/-! What `reduce` answers (R121, R126, R133), and the reference algorithms against it (R102, R123, R124). -/

namespace Sys2Proof.Machine

/-- The K_BOUND check does not apply: there is no bound, or Y is below k·P (R129). -/
theorem exceedsBound_eq_false_iff (kb : Option IterBound) (p y : Nat) :
    exceedsBound kb p y = false ↔ ∀ b, kb = some b → y < b.k * p := by
  cases kb <;> simp [exceedsBound]

/-- A residue of m fits one word. -/
theorem lo32_mod_toNat {m : Word} (hm : m.toNat ≠ 0) (v : Nat) : (lo32 (v % m.toNat)).toNat = v % m.toNat := by
  rw [lo32_toNat, Nat.mod_eq_of_lt ((Nat.mod_lt v (Nat.pos_of_ne_zero hm)).trans m.isLt)]

/-- `reduce` answers a residue exactly when no check applies, and then it is (Y mod P) mod m (R121). -/
theorem reduce_eq_ok_iff (kb : Option IterBound) (p : Limbs3) (m : Word) (y : Limbs5) (r : Word) :
    reduce kb p m y = .ok r ↔
      val3 p ≠ 0 ∧ m.toNat ≠ 0 ∧ (∀ b, kb = some b → val5 y < b.k * val3 p) ∧
        r.toNat = val5 y % val3 p % m.toNat := by
  rw [← exceedsBound_eq_false_iff]
  rcases reduce_cases kb p m y with ⟨hp, heq⟩ | ⟨hp, hm, heq⟩ | ⟨hp, hm, hk, heq⟩ | ⟨hp, hm, hk, heq⟩
  · simp [heq, hp]
  · simp [heq, hm]
  · simp [heq, hk]
  · rw [heq, Reduction.ok.injEq, ← BitVec.toNat_inj, lo32_mod_toNat hm, eq_comm]
    simp [hp, hm, hk]

/-- Settles O53: that the residue is below m follows from its value. -/
theorem reduceAnswersTheResidue : Obligations.ReduceAnswersTheResidue := by
  intro kb p m y r
  rw [reduce_eq_ok_iff]
  refine ⟨fun ⟨hp, hm, hk, hr⟩ => ⟨hp, hm, hk, hr, ?_⟩, fun ⟨hp, hm, hk, hr, _⟩ => ⟨hp, hm, hk, hr⟩⟩
  rw [hr]
  exact Nat.mod_lt _ (Nat.pos_of_ne_zero hm)

/-- Settles O54: `reduce` faults by its first three checks only. -/
theorem highLimbAssertionNeverFires : Obligations.HighLimbAssertionNeverFires := fun _ _ _ _ h =>
  absurd (reduce_fault_mem h) (by decide)

/-- Settles O56: the remainder by 2^j is the mask of j ones. -/
theorem powerOfTwoModulusIsAMask : Obligations.PowerOfTwoModulusIsAMask := by
  intro kb p m y r j hpow hred
  obtain ⟨-, -, -, hr⟩ := (reduce_eq_ok_iff kb p m y r).mp hred
  rw [hr, hpow, Nat.and_two_pow_sub_one_eq_mod]

/-- Settles O47: the chains' value is A·X + B with no carry out of limb 4, and a value has one limb sequence. -/
theorem carryChainsComputeCombine : Obligations.CarryChainsComputeCombine := by
  intro a b x
  have hchains := val5_combineChains a b x
  rw [combineChains_carry, Nat.mul_zero, Nat.add_zero, ← val5_combine] at hchains
  exact val5_inj hchains

/-- Settles O48: both laws are laws of A·X + B. -/
theorem combineLaws : Obligations.CombineLaws := by
  have hzero : val3 ⟨0, 0, 0⟩ = 0 := rfl
  have hone : val3 ⟨1, 0, 0⟩ = 1 := rfl
  refine ⟨fun a b x => ?_, fun x => val5_inj ?_⟩
  · rw [val5_combine, val5_combine, hzero]
    omega
  · rw [val5_combine, hzero, hone, one_mul, add_zero]
    simp [val2, val5]

/-- Settles O50: repeated subtraction of P, zero-extended. -/
theorem phaseOneReducesModP : Obligations.PhaseOneReducesModP := by
  intro fuel y p hp hfuel
  rw [← val5_zext3 p] at hp hfuel ⊢
  exact subtractLoop_eq hp fuel y hfuel

/-- Settles O51: repeated subtraction of m, zero-extended. -/
theorem phaseTwoReducesModM : Obligations.PhaseTwoReducesModM := by
  intro fuel z m hm hfuel
  rw [← val5_zext1 m] at hm hfuel ⊢
  exact subtractLoop_eq hm fuel z hfuel

/-- Settles O52: phase 2 runs on phase 1's residue, and its own residue sets no limb above the first. -/
theorem referenceReduceAgrees : Obligations.ReferenceReduceAgrees := by
  intro kb p m y fuel1 fuel2 hp hm hk hfuel1 hfuel2
  have hresidue : val5 (limbs5 (val5 y % val3 p)) = val5 y % val3 p :=
    val5_limbs5 ((Nat.mod_le _ _).trans_lt (val5_lt y))
  have hphase1 := phaseOneReducesModP fuel1 y p hp hfuel1
  have hphase2 := phaseTwoReducesModM fuel2 (limbs5 (val5 y % val3 p)) m hm (by rwa [hresidue])
  rw [hresidue] at hphase2
  have hword : val5 y % val3 p % m.toNat < 2 ^ 32 := (Nat.mod_lt _ (Nat.pos_of_ne_zero hm)).trans m.isLt
  rw [reduce_ok hp hm ((exceedsBound_eq_false_iff _ _ _).mpr hk)]
  simp only [reduceRef, hphase1, hphase2, Option.bind_some, Option.map_some, highLimbsSet_limbs5 hword,
    Bool.false_eq_true, if_false]
  rfl

end Sys2Proof.Machine

/-! REDUCE and HASH in flight, fault-free (R120, R150-R152, R168). -/

namespace Sys2Proof.Machine

/-- With P and m nonzero and Y within the K_BOUND check, the operation in flight has the residue (Y mod P) mod m. -/
theorem reduction_eq_ok {s : State} {o : Op} (hp : s.valP ≠ 0) (hm : s.valM ≠ 0)
    (hk : ∀ b, s.kBound = some b → s.toReduce o < b.k * s.valP) :
    ∃ r, s.reduction o = .ok r ∧ r.toNat = s.toReduce o % s.valP % s.valM := by
  rw [← val5_accumulator] at hk ⊢
  have hr := lo32_mod_toNat hm (val5 (s.accumulator o) % s.valP)
  exact ⟨_, (reduce_eq_ok_iff _ _ _ _ _).mpr ⟨hp, hm, hk, hr⟩, hr⟩

/-- Settles O21: the completion writes the residue of Yin to R. -/
theorem reduceResult : Obligations.ReduceResult := by
  intro s hbusy hop hp hm hk
  obtain ⟨r, hred, hr⟩ := reduction_eq_ok (o := .reduce) hp hm hk
  exact ⟨_, exec_reducing_ok hbusy hop nofun hred, hr, rfl⟩

/-- Settles O22: the completion writes A·X + B to YO0-YO4 and its residue to R. -/
theorem hashResult : Obligations.HashResult := by
  intro s hbusy hop hp hm hk
  obtain ⟨r, hred, hr⟩ := reduction_eq_ok (o := .hash) hp hm hk
  exact ⟨_, exec_reducing_ok hbusy hop nofun hred, val5_accumulator s .hash, hr, rfl⟩

/-- A HASH that ends in DONE has left its accumulator in YO0-YO4 and that accumulator's residue in R. -/
theorem Completed.hash_results {s t : State} (h : Completed s .hash t) (hdone : t.fsm = .done) :
    t.results.yo = s.accumulator .hash ∧ s.reduction .hash = .ok t.results.r := by
  cases h with
  | residue _ hred => exact ⟨rfl, hred⟩
  | fault => cases (raiseFault_fsm _ s).symm.trans hdone

/-- Settles O27: the REDUCE reduces the accumulator of the HASH, so by the same checks it has the same residue. -/
theorem reduceOfHashAccumulatorAgrees : Obligations.ReduceOfHashAccumulatorAgrees := by
  intro s t u hsbusy hsop hexec hdone hubusy huop hp hm hk hyi
  obtain ⟨t', hexec', hcompleted⟩ := exec_completed hsbusy hsop
  obtain rfl : t = t' := Host.Outcome.next.inj (hexec.symm.trans hexec')
  obtain ⟨hyo, hred⟩ := hcompleted.hash_results hdone
  have hagree : u.reduction .reduce = .ok t.results.r := by
    rw [← hred, State.reduction, State.reduction, hp, hm, hk, State.accumulator, hyi, hyo]
  exact ⟨_, exec_reducing_ok hubusy huop nofun hagree, rfl, rfl⟩

end Sys2Proof.Machine

/-! Operand loads by the host (R85). -/

namespace Sys2Proof.Machine

/-- Two accepted writes to different registers commute (R24, R85). -/
theorem afterLoads_swap {o o' : OperandReg} (h : o ≠ o') (v w : Word) (s : State) :
    afterLoads [(o, v), (o', w)] s = afterLoads [(o', w), (o, v)] s := by
  simp only [afterLoads, List.foldl_cons, List.foldl_nil, setOperand, respondDraw, set_set_comm s.operands v w h]

/-- Settles O57: while BUSY both writes are refused, whatever they name; otherwise they commute. -/
theorem operandLoadOrderIsFree : Obligations.OperandLoadOrderIsFree := by
  intro o o' v w s hne
  by_cases hbusy : s.fsm = .busy
  · simp only [runStmts_wr, operandWrite_refused, hbusy, respondDraw_fsm]
  · calc runStmts [.wr (.operand o) v, .wr (.operand o') w] s
        = .next (afterLoads [(o, v), (o', w)] s) := runStmts_loads [(o, v), (o', w)] s hbusy
      _ = .next (afterLoads [(o', w), (o, v)] s) := congrArg _ (afterLoads_swap hne v w s)
      _ = runStmts [.wr (.operand o') w, .wr (.operand o) v] s := (runStmts_loads [(o', w), (o, v)] s hbusy).symm

/-! The limbs of a wide immediate, put together again (R53, R85). -/

theorem val2_limbOf (v : BitVec 64) : val2 ⟨limbOf v 0, limbOf v 1⟩ = v.toNat := by
  have hv := v.isLt
  simp only [val2, limbOf_toNat]
  omega

theorem val3_limbOf (v : BitVec 96) : val3 ⟨limbOf v 0, limbOf v 1, limbOf v 2⟩ = v.toNat := by
  have hv := v.isLt
  simp only [val3, limbOf_toNat]
  omega

theorem val5_limbOf (v : BitVec 160) :
    val5 ⟨limbOf v 0, limbOf v 1, limbOf v 2, limbOf v 3, limbOf v 4⟩ = v.toNat := by
  have hv := v.isLt
  simp only [val5, limbOf_toNat]
  omega

/-- Accepted operand writes change the operands, the answer and the index of free values only (R58). -/
theorem afterLoads_frame (l : List (OperandReg × Word)) (s : State) :
    afterLoads l s =
      { s with operands := (afterLoads l s).operands, draws := (afterLoads l s).draws,
               response := (afterLoads l s).response } := by
  induction l generalizing s with
  | nil => rfl
  | cons p rest ih => exact ih _

/-- Settles O58: each pseudo-instruction is a list of accepted operand writes, one per limb. -/
theorem loadsSetTheQuantity : Obligations.LoadsSetTheQuantity := by
  intro s hbusy
  refine ⟨fun v => ?_, fun v => ?_, fun v => ?_, fun v => ?_, fun v => ?_, fun v => ?_⟩
  · exact ⟨_, runStmts_loads [(.a0, limbOf v 0), (.a1, limbOf v 1), (.a2, limbOf v 2)] s hbusy, val3_limbOf v,
      afterLoads_frame _ s⟩
  · exact ⟨_, runStmts_loads [(.b0, limbOf v 0), (.b1, limbOf v 1), (.b2, limbOf v 2)] s hbusy, val3_limbOf v,
      afterLoads_frame _ s⟩
  · exact ⟨_, runStmts_loads [(.x0, limbOf v 0), (.x1, limbOf v 1)] s hbusy, val2_limbOf v, afterLoads_frame _ s⟩
  · exact ⟨_, runStmts_loads [(.p0, limbOf v 0), (.p1, limbOf v 1), (.p2, limbOf v 2)] s hbusy, val3_limbOf v,
      afterLoads_frame _ s⟩
  · exact ⟨_, runStmts_loads [(.m, v)] s hbusy, rfl, afterLoads_frame _ s⟩
  · exact ⟨_, runStmts_loads [(.yi0, limbOf v 0), (.yi1, limbOf v 1), (.yi2, limbOf v 2), (.yi3, limbOf v 3),
      (.yi4, limbOf v 4)] s hbusy, val5_limbOf v, afterLoads_frame _ s⟩

end Sys2Proof.Machine
